-- ==== Sys2Proof/Word.lean ====
section
/-! DEFINITION. The word types of the engine (00_scope.md R12, R13). -/

namespace Sys2Proof

/-- A page number, a chip register value, a header status: 8 bits (R12). -/
abbrev Byte := BitVec 8

/-- A header byte count, a transmit length, a chip-memory byte address: 16 bits (R12). -/
abbrev Half := BitVec 16

/-- A command word: 32 bits (30_encoding.md R86). -/
abbrev Word := BitVec 32

/-- A tick count of the Clock: u32 (60_exceptions.md R263). -/
abbrev Tick := BitVec 32

/-- A 6-byte Ethernet address, `a[0]` first (45_multicast.md R220). -/
abbrev MacAddr := Vector Byte 6

/-- The 64-bit multicast table as 8 bytes (10_state.md R36). -/
abbrev HashTable := Vector Byte 8

/-- The low byte of a 16-bit value: what goes to the register with suffix 0 (20_memory.md R55). -/
abbrev lowByte (h : Half) : Byte := h.extractLsb' 0 8

/-- The high byte of a 16-bit value: what goes to the register with suffix 1 (20_memory.md R55). -/
abbrev highByte (h : Half) : Byte := h.extractLsb' 8 8

end Sys2Proof
end

