-- ==== Sys2Proof/Syntax.lean ====
section
/-! DEFINITION. The 17 operations of the block (30_encoding.md R89) as one inductive, their opcodes, classes and mnemonics. -/

namespace Sys2Proof

/-- The operations by name (R89). -/
inductive Op where
  | INIT | OPEN | CLOSE | SUBMIT | SET_MULTICAST | GET_STATS | IRQ | TX_COLLISION
  | DRAIN | TX_DONE | TX_ERROR | COUNTER_DRAIN | RDC_ACK | OVERRUN_RECOVER | MC_REBUILD | TRIGGER_SEND | TX_TIMEOUT_RESET
deriving DecidableEq, Repr

/-- The class column of R89. -/
inductive OpClass where
  | host | irq | internal
deriving DecidableEq, Repr

/-- One constructor per row of spec/opcode_table.json. The operands here are the bits of the word; `data`, `list`, `now` and
TRIGGER_SEND's slot and length are side-band operands (R86) and stand in State. `md` is the two bits as decoded: `11` is
ill-formed (R90). -/
inductive Instr where
  | init (start : Bool)
  | openInst
  | closeInst
  | submit (len : Half)
  | setMulticast (md : BitVec 2)
  | getStats
  | irq
  | txCollision
  | drain
  | txDone
  | txError
  | counterDrain
  | rdcAck
  | overrunRecover
  | mcRebuild
  | triggerSend
  | txTimeoutReset
deriving DecidableEq, Repr

/-- The operation an instruction names. -/
def Instr.op : Instr → Op
  | .init _ => .INIT
  | .openInst => .OPEN
  | .closeInst => .CLOSE
  | .submit _ => .SUBMIT
  | .setMulticast _ => .SET_MULTICAST
  | .getStats => .GET_STATS
  | .irq => .IRQ
  | .txCollision => .TX_COLLISION
  | .drain => .DRAIN
  | .txDone => .TX_DONE
  | .txError => .TX_ERROR
  | .counterDrain => .COUNTER_DRAIN
  | .rdcAck => .RDC_ACK
  | .overrunRecover => .OVERRUN_RECOVER
  | .mcRebuild => .MC_REBUILD
  | .triggerSend => .TRIGGER_SEND
  | .txTimeoutReset => .TX_TIMEOUT_RESET

end Sys2Proof
end

