-- ==== Sys2Proof/WellFormed.lean ====
section
/-! DEFINITION. Which instructions a command word can spell (30_encoding.md R88, R90). -/

namespace Sys2Proof

/-- The one operand value no legal word spells is `md = 11` (R88, R90). Every length 0 to 65535 decodes; a length over
`ethFrameLen` is refused by SUBMIT itself (41_transmit.md R132). -/
def Instr.wellFormed : Instr → Bool
  | .setMulticast md => md != 3#2
  | .init _ | .openInst | .closeInst | .submit _ | .getStats | .irq | .txCollision | .drain | .txDone | .txError
  | .counterDrain | .rdcAck | .overrunRecover | .mcRebuild | .triggerSend | .txTimeoutReset => true

end Sys2Proof
end

