-- ==== Sys2Proof/Decode.lean ====
section
/-! DEFINITION. The command word: its fields (30_encoding.md R86), the decoder (R88 to R90) and the encoder. -/

namespace Sys2Proof

/-- The opcode column of R89. -/
def Op.code : Op → Byte
  | .INIT => 0x01
  | .OPEN => 0x02
  | .CLOSE => 0x03
  | .SUBMIT => 0x04
  | .SET_MULTICAST => 0x05
  | .GET_STATS => 0x06
  | .IRQ => 0x10
  | .TX_COLLISION => 0x11
  | .DRAIN => 0x20
  | .TX_DONE => 0x21
  | .TX_ERROR => 0x22
  | .COUNTER_DRAIN => 0x23
  | .RDC_ACK => 0x24
  | .OVERRUN_RECOVER => 0x25
  | .MC_REBUILD => 0x26
  | .TRIGGER_SEND => 0x27
  | .TX_TIMEOUT_RESET => 0x28

/-- The class column of R89. -/
def Op.cls : Op → OpClass
  | .INIT | .OPEN | .CLOSE | .SUBMIT | .SET_MULTICAST | .GET_STATS => .host
  | .IRQ | .TX_COLLISION => .irq
  | .DRAIN | .TX_DONE | .TX_ERROR | .COUNTER_DRAIN | .RDC_ACK | .OVERRUN_RECOVER | .MC_REBUILD | .TRIGGER_SEND
  | .TX_TIMEOUT_RESET => .internal

/-- Every operation, in the table's order. -/
def Op.all : List Op :=
  [.INIT, .OPEN, .CLOSE, .SUBMIT, .SET_MULTICAST, .GET_STATS, .IRQ, .TX_COLLISION, .DRAIN, .TX_DONE, .TX_ERROR,
   .COUNTER_DRAIN, .RDC_ACK, .OVERRUN_RECOVER, .MC_REBUILD, .TRIGGER_SEND, .TX_TIMEOUT_RESET]

/-- The operation of an opcode; none for a reserved opcode (R90). -/
def Op.ofCode? (c : Byte) : Option Op := Op.all.find? (fun o => o.code == c)

/-- Bits 7:0 (R86). -/
def opField (w : Word) : Byte := w.extractLsb' 0 8

/-- Bit 8 (R86). -/
def stField (w : Word) : Bool := w.getLsbD 8

/-- Bits 10:9 (R86). -/
def mdField (w : Word) : BitVec 2 := w.extractLsb' 9 2

/-- Bits 15:11, reserved (R86). -/
def reservedField (w : Word) : BitVec 5 := w.extractLsb' 11 5

/-- Bits 31:16 (R86). -/
def lenField (w : Word) : Half := w.extractLsb' 16 16

/-- Why a word spells no operation (R90). The issuer's part of R90 is checked when the command is taken, not here. -/
inductive DecodeError where
  | reservedOpcode
  | nonZeroField
  | reservedMode
deriving DecidableEq, Repr

/-- A field that R86 says must be 0 is not 0. -/
def strayField (op : Op) (w : Word) : Bool :=
  reservedField w != 0#5
    || (op != .INIT && stField w)
    || (op != .SET_MULTICAST && mdField w != 0#2)
    || (op != .SUBMIT && lenField w != 0#16)

/-- Operand assembly (R88). -/
def assembleOperands (op : Op) (w : Word) : Instr :=
  match op with
  | .INIT => .init (stField w)
  | .OPEN => .openInst
  | .CLOSE => .closeInst
  | .SUBMIT => .submit (lenField w)
  | .SET_MULTICAST => .setMulticast (mdField w)
  | .GET_STATS => .getStats
  | .IRQ => .irq
  | .TX_COLLISION => .txCollision
  | .DRAIN => .drain
  | .TX_DONE => .txDone
  | .TX_ERROR => .txError
  | .COUNTER_DRAIN => .counterDrain
  | .RDC_ACK => .rdcAck
  | .OVERRUN_RECOVER => .overrunRecover
  | .MC_REBUILD => .mcRebuild
  | .TRIGGER_SEND => .triggerSend
  | .TX_TIMEOUT_RESET => .txTimeoutReset

/-- The decoder: total on every 32-bit word, rejecting by name (R87 to R90). -/
def decode (w : Word) : Except DecodeError Instr :=
  match Op.ofCode? (opField w) with
  | none => .error .reservedOpcode
  | some op =>
    if strayField op w then .error .nonZeroField
    else if (assembleOperands op w).wellFormed then .ok (assembleOperands op w)
    else .error .reservedMode

/-- Field `st` of the word of an instruction. -/
def Instr.stBit : Instr → Bool
  | .init start => start
  | .openInst | .closeInst | .submit _ | .setMulticast _ | .getStats | .irq | .txCollision | .drain | .txDone | .txError
  | .counterDrain | .rdcAck | .overrunRecover | .mcRebuild | .triggerSend | .txTimeoutReset => false

/-- Field `md` of the word of an instruction. -/
def Instr.mdBits : Instr → BitVec 2
  | .setMulticast md => md
  | .init _ | .openInst | .closeInst | .submit _ | .getStats | .irq | .txCollision | .drain | .txDone | .txError
  | .counterDrain | .rdcAck | .overrunRecover | .mcRebuild | .triggerSend | .txTimeoutReset => 0#2

/-- Field `len` of the word of an instruction. -/
def Instr.lenBits : Instr → Half
  | .submit len => len
  | .init _ | .openInst | .closeInst | .setMulticast _ | .getStats | .irq | .txCollision | .drain | .txDone | .txError
  | .counterDrain | .rdcAck | .overrunRecover | .mcRebuild | .triggerSend | .txTimeoutReset => 0#16

/-- The word laid out by fields: `len`, five zero bits, `md`, `st`, `op` (R86). -/
def layout (len : Half) (md : BitVec 2) (st : Bool) (op : Byte) : Word :=
  len ++ (0#5 ++ (md ++ (BitVec.ofBool st ++ op)))

/-- The encoder: the one word of an instruction. -/
def encode (i : Instr) : Word := layout i.lenBits i.mdBits i.stBit i.op.code

/-- The instruction the decoder reads from a table word: one 32-bit word, bit 0 the least significant bit (R87). -/
def decodeTableWord (nbits w : Nat) : Option Instr :=
  if nbits ≤ 32 ∧ w < 2 ^ nbits then
    match decode (BitVec.ofNat 32 w) with
    | .ok i => some i
    | .error _ => none
  else none

end Sys2Proof
end

