-- ==== Sys2Proof/Config.lean ====
section
/-! DEFINITION. What an implementation fixes: the chip's registers and constants (10_state.md R41, 30_encoding.md R94 to R105),
the configuration record `Cfg` (00_scope.md R9), and the free values, constants with no body. -/

namespace Sys2Proof

/-- The identity string, the spec's own label (00_scope.md R2). -/
def identity : String := "NS8390-ENGINE/pcap-msdos-sub000/DOCv7"

/-! ## Chip registers -/

/-- The chip registers by name (10_state.md R41). The last seven are the ones the engine never accesses. -/
inductive ChipReg where
  | cr | pstart | pstop | bnry | tpsr | tsr | tbcr0 | ncr | tbcr1 | isr | rbcr0 | rbcr1
  | rcr | tcr | cntr0 | dcr | cntr1 | imr | cntr2
  | par (i : Fin 6)
  | curr
  | mar (m : Fin 8)
  | clda0 | clda1 | crda0 | crda1 | rsar0 | rsar1 | fifo
deriving DecidableEq, Repr, Inhabited

/-- The place of a register in the shadow file, which has one place for each of the 41 registers. -/
def ChipReg.index : ChipReg → Fin 41
  | .cr => 0 | .pstart => 1 | .pstop => 2 | .bnry => 3 | .tpsr => 4 | .tsr => 5 | .tbcr0 => 6
  | .ncr => 7 | .tbcr1 => 8 | .isr => 9 | .rbcr0 => 10 | .rbcr1 => 11 | .rcr => 12 | .tcr => 13
  | .cntr0 => 14 | .dcr => 15 | .cntr1 => 16 | .imr => 17 | .cntr2 => 18
  | .par i => ⟨19 + i.val, by omega⟩
  | .curr => 25
  | .mar m => ⟨26 + m.val, by omega⟩
  | .clda0 => 34 | .clda1 => 35 | .crda0 => 36 | .crda1 => 37 | .rsar0 => 38 | .rsar1 => 39 | .fifo => 40

/-- One row of the register map: register page (none for CR, which every page shows), offset from the board's I/O base,
and whether the engine reads or writes it (R41, 60_exceptions.md R266). -/
structure RegPort where
  reg    : ChipReg
  page   : Option Nat
  offset : Nat
  reads  : Bool
  writes : Bool
deriving DecidableEq, Repr

/-- The register map of 10_state.md R41. PRESUMED (entry 14): the spec takes every page and offset from general knowledge. -/
def ns8390Ports : List RegPort :=
  [ ⟨.cr, none, 0x00, true, true⟩, ⟨.pstart, some 0, 0x01, false, true⟩, ⟨.pstop, some 0, 0x02, false, true⟩,
    ⟨.bnry, some 0, 0x03, false, true⟩, ⟨.tpsr, some 0, 0x04, false, true⟩, ⟨.tsr, some 0, 0x04, true, false⟩,
    ⟨.tbcr0, some 0, 0x05, false, true⟩, ⟨.ncr, some 0, 0x05, true, false⟩, ⟨.tbcr1, some 0, 0x06, false, true⟩,
    ⟨.isr, some 0, 0x07, true, true⟩, ⟨.rbcr0, some 0, 0x0A, false, true⟩, ⟨.rbcr1, some 0, 0x0B, false, true⟩,
    ⟨.rcr, some 0, 0x0C, false, true⟩, ⟨.tcr, some 0, 0x0D, false, true⟩, ⟨.cntr0, some 0, 0x0D, true, false⟩,
    ⟨.dcr, some 0, 0x0E, false, true⟩, ⟨.cntr1, some 0, 0x0E, true, false⟩, ⟨.imr, some 0, 0x0F, false, true⟩,
    ⟨.cntr2, some 0, 0x0F, true, false⟩, ⟨.curr, some 1, 0x07, true, true⟩ ]
  ++ (List.finRange 6).map (fun i => ⟨.par i, some 1, 0x01 + i.val, false, true⟩)
  ++ (List.finRange 8).map (fun m => ⟨.mar m, some 1, 0x08 + m.val, false, true⟩)
  ++ [ ⟨.clda0, some 0, 0x01, false, false⟩, ⟨.clda1, some 0, 0x02, false, false⟩,
       ⟨.crda0, some 0, 0x08, false, false⟩, ⟨.crda1, some 0, 0x09, false, false⟩,
       ⟨.rsar0, some 0, 0x08, false, false⟩, ⟨.rsar1, some 0, 0x09, false, false⟩,
       ⟨.fifo, some 0, 0x06, false, false⟩ ]

/-- What the engine owes a field of a register (10_state.md R41): nothing special; it is not used (any value is read); or it is
reserved and written as 0. -/
inductive FieldKind where
  | used | unused | writeZero
deriving DecidableEq, Repr

/-- A field of a register, bits `hi` down to `lo` (R41). -/
structure RegField where
  reg  : ChipReg
  hi   : Nat
  lo   : Nat
  name : String
  kind : FieldKind := .used
deriving DecidableEq, Repr

/-- One-bit fields named from bit 0 up. -/
def bitFields (r : ChipReg) (names : List String) : List RegField := names.mapIdx (fun i n => ⟨r, i, i, n, .used⟩)

/-- The fields column of R41, row by row. PRESUMED (entry 14), as the spec marks. The masks of `ChipMap` say the same of the bits
the engine tests and writes. -/
def ns8390Fields : List RegField :=
  bitFields .cr ["STP", "STA", "TXP"] ++ [⟨.cr, 5, 3, "RD", .used⟩, ⟨.cr, 7, 6, "PS", .used⟩]
  ++ [ ⟨.pstart, 7, 0, "first ring page", .used⟩, ⟨.pstop, 7, 0, "page after the ring", .used⟩,
       ⟨.bnry, 7, 0, "boundary page", .used⟩, ⟨.tpsr, 7, 0, "transmit start page", .used⟩ ]
  ++ bitFields .tsr ["PTX", "ND", "COL", "ABT", "CRS", "FU", "CDH", "OWC"]
  ++ [ ⟨.tbcr0, 7, 0, "transmit byte count low", .used⟩, ⟨.ncr, 3, 0, "collision count", .used⟩,
       ⟨.ncr, 7, 4, "unused", .unused⟩, ⟨.tbcr1, 7, 0, "transmit byte count high", .used⟩ ]
  ++ bitFields .isr ["PRX", "PTX", "RXE", "TXE", "OVW", "CNT", "RDC", "RST"]
  ++ [⟨.rbcr0, 7, 0, "remote byte count low", .used⟩, ⟨.rbcr1, 7, 0, "remote byte count high", .used⟩]
  ++ bitFields .rcr ["SEP", "AR", "AB", "AM", "PRO", "MON"] ++ [⟨.rcr, 7, 6, "reserved", .writeZero⟩]
  ++ [ ⟨.tcr, 0, 0, "CRC inhibit", .used⟩, ⟨.tcr, 2, 1, "LB", .used⟩, ⟨.tcr, 3, 3, "ATD", .used⟩, ⟨.tcr, 4, 4, "OFST", .used⟩,
       ⟨.tcr, 7, 5, "reserved", .writeZero⟩, ⟨.cntr0, 7, 0, "frame-alignment error count", .used⟩ ]
  ++ bitFields .dcr ["WTS", "BOS", "LAS", "LS", "AR"] ++ [⟨.dcr, 6, 5, "FT", .used⟩, ⟨.dcr, 7, 7, "reserved", .writeZero⟩]
  ++ [⟨.cntr1, 7, 0, "CRC error count", .used⟩]
  ++ bitFields .imr ["PRXE", "PTXE", "RXEE", "TXEE", "OVWE", "CNTE", "RDCE"] ++ [⟨.imr, 7, 7, "reserved", .writeZero⟩]
  ++ [⟨.cntr2, 7, 0, "missed-packet count", .used⟩]
  ++ (List.finRange 6).map (fun i => ⟨.par i, 7, 0, "station address byte", .used⟩)
  ++ [⟨.curr, 7, 0, "live write pointer page", .used⟩]
  ++ (List.finRange 8).map (fun m => ⟨.mar m, 7, 0, "multicast hash byte", .used⟩)

/-- The registers the Chip changes on its own (10_state.md R43): a read of one is a draw. -/
def chipOwned : List ChipReg := [.cr, .isr, .tsr, .ncr, .cntr0, .cntr1, .cntr2, .curr]

/-- The chip's constants, field `chipMap` of `Cfg`: the register map with its fields (10_state.md R41), command, mask and mode values
(30_encoding.md R94 to R98), the masks of the bits read (R100, R101, R103; CR bit TXP of R41) and the place of the collision count
(R102). PRESUMED (entry 14): the spec marks every value as general knowledge; the default is the spec's own table. -/
structure ChipMap where
  ports       : List RegPort := ns8390Ports
  fields      : List RegField := ns8390Fields
  crStop      : Byte := 0x21
  crStart     : Byte := 0x22
  crTrans     : Byte := 0x26
  crWindow0   : Byte := 0x20
  crTxp       : Byte := 0x04
  imrNone     : Byte := 0x00
  imrAll      : Byte := 0x3F
  isrAll      : Byte := 0xFF
  rcrOff      : Byte := 0x20
  rcrBase     : Byte := 0x04
  rcrAm       : Byte := 0x08
  rcrPro      : Byte := 0x10
  tcrLoopback : Byte := 0x02
  tcrNormal   : Byte := 0x00
  isrPrx : Byte := 0x01
  isrPtx : Byte := 0x02
  isrRxe : Byte := 0x04
  isrTxe : Byte := 0x08
  isrOvw : Byte := 0x10
  isrCnt : Byte := 0x20
  isrRdc : Byte := 0x40
  isrRst : Byte := 0x80
  tsrPtx : Byte := 0x01
  tsrNd  : Byte := 0x02
  tsrCol : Byte := 0x04
  tsrAbt : Byte := 0x08
  tsrCrs : Byte := 0x10
  tsrFu  : Byte := 0x20
  tsrCdh : Byte := 0x40
  tsrOwc : Byte := 0x80
  ncrCount : RegField := ⟨.ncr, 3, 0, "collision count", .used⟩
  rsrPrx : Byte := 0x01
  rsrCrc : Byte := 0x02
  rsrFae : Byte := 0x04
  rsrFo  : Byte := 0x08
  rsrMpa : Byte := 0x10
  rsrPhy : Byte := 0x20
  rsrDis : Byte := 0x40
  rsrDfr : Byte := 0x80
deriving DecidableEq, Repr

/-- The NS8390 constants of 30_encoding.md. -/
def ChipMap.ns8390 : ChipMap := {}

/-! ## The configuration record -/

/-- `numTxSlots ∈ {1, 2}` (00_scope.md R9). -/
inductive SlotCount where
  | one | two
deriving DecidableEq, Repr

/-- The number itself. -/
def SlotCount.toNat : SlotCount → Nat
  | .one => 1
  | .two => 2

/-- One listed value of a next-frame function given as a table (entry 7). -/
structure NextFrameRow where
  page  : Byte
  count : Half
  result : Int
deriving DecidableEq, Repr

/-- `nextFrameFn`, a function `(u8, u16) → Int`, as plain data (00_scope.md R9, 92_eei_decisions.md D9, entry 7): DOC's words
(the default), the driver's formula of 93_implementation_defined.md G31, or a table of its values, DOC's words elsewhere. -/
inductive NextFrameFn where
  | doc
  | driver
  | table (rows : List NextFrameRow)
deriving DecidableEq, Repr

/-- The configuration record of 00_scope.md R9, with its defaults. `overrunWaitMin` is in microseconds (entry 8); R9 gives it a floor
and no value, so it has no default here. -/
structure Cfg where
  numTxSlots     : SlotCount
  txStartPage    : Byte
  rxStartPage    : Byte
  stopPage       : Byte
  txSlot2Offset  : Byte := 6
  stationAddr    : MacAddr
  word16         : Bool
  maxRxIter      : Nat := 10
  maxService     : Nat := 12
  txTimeout      : Nat
  overrunWaitMin : Nat
  ethZlen        : Nat := 60
  ethFrameLen    : Nat := 1514
  hdrLen         : Nat := 4
  pageSize       : Nat := 256
  nextFrameFn    : NextFrameFn := .doc
  wrapTol        : List Int
  chipMap        : ChipMap := ChipMap.ns8390
  dcrValue       : Byte
  cntWidth       : Nat := 32
deriving DecidableEq, Repr

/-- The default tolerance set for ring length `R` (00_scope.md R9, 42_receive.md R163, 90_conflicts.md C1). -/
def defaultWrapTol (R : Int) : List Int := [0, 1, -R, 1 - R]

/-- The general-knowledge default of `dcrValue` (30_encoding.md R99). -/
def dcrDefault (word16 : Bool) : Byte := 0x48 ||| (if word16 then 0x01 else 0x00)

/-- Configuration K of 95_test_vectors.md §0, the configuration of `State.reset`. DESIGN CHOICE (entry 1), unsafe for a claim
about the reset state alone: the board's values and `txTimeout` are OPEN in the spec. K lists no `overrunWaitMin`: that it is the
floor itself, 1600 µs, is the model's own. DESIGN CHOICE (entry 31), unsafe in the same way. -/
def Cfg.vectorK : Cfg where
  numTxSlots  := .two
  txStartPage := 0x40
  rxStartPage := 0x4C
  stopPage    := 0x80
  stationAddr := #v[0x00, 0x00, 0xC0, 0x12, 0x34, 0x56]
  word16      := false
  txTimeout   := 100
  overrunWaitMin := 1600
  wrapTol     := defaultWrapTol 52
  dcrValue    := dcrDefault false

/-- Configuration K1 of 95_test_vectors.md §0: K with one slot and a ring of 58 pages. -/
def Cfg.vectorK1 : Cfg :=
  { Cfg.vectorK with numTxSlots := .one, rxStartPage := 0x46, wrapTol := defaultWrapTol 58 }

/-! ## Free values

The answers no rule limits (60_exceptions.md R258). Each is a constant with no body, applied to the count of draws made so far
(entry 5), so nothing can be proved of any one value. -/

/-- A ring frame header as `Board.getHeader` answers it, decoded (20_memory.md R54). -/
structure Hdr where
  status : Byte
  next   : Byte
  count  : Half
deriving DecidableEq, Repr, Inhabited

/-- What the Chip answers to a read when no answer is listed (20_memory.md R66). -/
opaque Config.freeChip : ChipReg → Nat → Byte

/-- What the Board answers to `getHeader` when no answer is listed (R73). -/
opaque Config.freeHeader : Nat → Hdr

/-- Whether the Upward layer grants a buffer when no answer is listed (R76). -/
opaque Config.freeGrant : Nat → Bool

/-- The byte `blockIn` copies from a ring address (R67, R74): any value. -/
opaque Config.freeRingByte : Nat → Nat → Byte

/-- A byte of a host buffer past the bytes listed (R139 asks for at least `len`, entry 13). -/
opaque Config.freeHostByte : Nat → Nat → Byte

end Sys2Proof
end

