-- ==== Sys2Proof/Machine/State.lean ====
section
/-! DEFINITION. The engine state (10_state.md R24), the events of its trace (R44), its faults and refusals, and the lists of
inputs the outside world gives it. Plain data throughout. -/

namespace Sys2Proof.Machine

/-! ## The parts of the state -/

/-- A transmit slot, 1 or 2 (R24, R28). -/
inductive Slot where
  | one | two
deriving DecidableEq, Repr

/-- A slot's occupancy (R26). A slot in `sending` does not keep its length. -/
inductive SlotState where
  | free
  | loaded (len : Half)
  | sending
deriving DecidableEq, Repr

/-- The diagnostic marker `lasttx` (R32, 90_conflicts.md C7). -/
inductive LastTx where
  | none
  | startedBySubmit (i : Slot)
  | startedByCompletion (i : Slot)
  | idleAfter (i : Slot)
deriving DecidableEq, Repr

/-- The receive filter mode (R24). -/
inductive McMode where
  | list | allMulti | promisc
deriving DecidableEq, Repr

/-- The names of the statistics counters (R37). -/
inductive Counter where
  | rxPackets | rxBytes | rxErrors | rxDropped | rxLengthErrors | rxFifoErrors | rxFrameErrors | rxCrcErrors
  | rxMissedErrors | rxOverErrors
  | txPackets | txErrors | txAbortedErrors | txCarrierErrors | txFifoErrors | txHeartbeatErrors | txWindowErrors
  | collisions
deriving DecidableEq, Repr

/-- The statistics counters (R37), each below `2 ^ cntWidth` in every state a run reaches. -/
structure Stats where
  rxPackets         : Nat := 0
  rxBytes           : Nat := 0
  rxErrors          : Nat := 0
  rxDropped         : Nat := 0
  rxLengthErrors    : Nat := 0
  rxFifoErrors      : Nat := 0
  rxFrameErrors     : Nat := 0
  rxCrcErrors       : Nat := 0
  rxMissedErrors    : Nat := 0
  rxOverErrors      : Nat := 0
  txPackets         : Nat := 0
  txErrors          : Nat := 0
  txAbortedErrors   : Nat := 0
  txCarrierErrors   : Nat := 0
  txFifoErrors      : Nat := 0
  txHeartbeatErrors : Nat := 0
  txWindowErrors    : Nat := 0
  collisions        : Nat := 0
deriving DecidableEq, Repr

/-- The last value written to each chip register, none where none was written (R24, R44), by `ChipReg.index`. -/
abbrev Shadow := Vector (Option Byte) 41

/-- Chip buffer memory (20_memory.md R48) as (address, byte) pairs, addresses strictly rising. An unlisted address has no
known value (entry 11). -/
abbrev Memory := List Host.Cell

/-- What SUBMIT returns (30_encoding.md R106). -/
inductive SubmitResult where
  | queued | busy | retransmitting
deriving DecidableEq, Repr

/-- What an operation returns (R107, R108). -/
inductive RetVal where
  | unit
  | submit (r : SubmitResult)
  | delivered (n : Nat)
  | stats (s : Stats)
  | table (t : HashTable)
deriving DecidableEq, Repr

/-- The diagnostic kinds with their operands (30_encoding.md R110, R112). -/
inductive LogKind where
  | irqReentrant
  | irqWhileMasked
  | irqWhileClosed
  | serviceBudgetExhausted (remaining : Byte)
  | ringCorrupt (this : Byte) (next : Byte) (computed : Int)
  | rxLength (pktLen : Int)
  | rxStatusError (status : Byte)
  | rxNoBuffer (pktLen : Int)
  | bogusLastTx (last : LastTx) (done : Slot)
  | unexpectedTxDone (last : LastTx)
  | noFreeSlot
  | txTimeout (isr : Byte)
  | txErrorClass (tsr : Byte)
  | collisionWhileIdle
  | submitClosed
  | overrun (wasTxing : Bool) (mustResend : Bool)
deriving DecidableEq, Repr

/-- An event of the trace (R44). `wait` carries microseconds (entry 8). -/
inductive Event where
  | chipR (reg : ChipReg) (v : Byte)
  | chipW (reg : ChipReg) (v : Byte)
  | resetChip (media : BitVec 1)
  | getHeader (page : Byte) (hdr : Hdr)
  | blockIn (count : Nat) (offset : Half)
  | blockOut (count : Nat) (page : Byte)
  | getBuffer (len : Nat) (granted : Bool)
  | wait (d : Nat)
  | log (kind : LogKind)
  | result (op : Op) (value : RetVal)
deriving DecidableEq, Repr

/-- The faults (30_encoding.md R111, 60_exceptions.md R250). An operation raises one by setting `State.fault`, and a step from
a state that holds one answers it (entry 2). -/
inductive Fault where
  /-- Raised by DRAIN when it reads `currentPage` unset (42_receive.md R166). Safe: only a test harness reaches it. -/
  | unsetState
  /-- Raised by DRAIN when CURR reads outside the ring (20_memory.md R65). Safe for a chip that keeps CURR in the ring. -/
  | currOutOfRing
deriving DecidableEq, Repr

/-- The refusals (60_exceptions.md R251): the input has no meaning, no state is set and no event appended (entry 3). -/
inductive Refusal where
  /-- An arm of `exec` with no meaning yet: none is left. Safe. -/
  | notModelled (mnemonic : String)
  /-- The command word spells no operation (30_encoding.md R90): answered by `step`, and by SET_MULTICAST for `md = 11`. Safe. -/
  | illegalCommandWord
  /-- An internal opcode not issued by a test harness under `internalCall` (R90, R91): answered by `step`. Safe. -/
  | internalOpcode
  /-- SUBMIT with `len > ethFrameLen` (41_transmit.md R132): answered by SUBMIT. Safe. -/
  | oversizeFrame
  /-- The configuration fails 00_scope.md R9 or R10: answered by `step`. Safe. -/
  | inadmissibleConfig
deriving DecidableEq, Repr

/-! ## Inputs -/

/-- Side-band operands of a command (R86, R89): the bytes of host buffer `data`, the address `list`, the tick count `now`, and
TRIGGER_SEND's `slot` and `length`. -/
structure CmdOperands where
  data   : List Byte := []
  list   : List MacAddr := []
  now    : Tick := 0#32
  slot   : Slot := .one
  length : Half := 0#16
deriving DecidableEq, Repr

/-- Who issues a command: the Host, the IRQ agent (the Chip's collision event included), or a test harness (R89 to R91). -/
inductive Issuer where
  | host | irq | harness
deriving DecidableEq, Repr

/-- A command an agent has issued (R86). -/
structure Command where
  issuer   : Issuer
  word     : Word
  operands : CmdOperands := {}
deriving DecidableEq, Repr

/-- What the other agents will answer. Each list is consumed in order by the next request of its kind (30_encoding.md R92);
where none is left the answer is a free value (entry 5). `nested` holds, for each coming preemption point, how many IRQ steps
land there (20_memory.md R80, entry 6). `draws` counts the draws made. -/
structure Env where
  chip    : List (ChipReg × Byte) := []
  headers : List (Byte × Hdr) := []
  grants  : List (Nat × Bool) := []
  nested  : List Nat := []
  draws   : Nat := 0
deriving DecidableEq, Repr

/-! ## The state -/

/-- The engine state `s` (R24), its configuration (R22), chip buffer memory (20_memory.md R48), and the model's own fields. -/
structure State where
  cfg         : Cfg
  currentPage : Option Byte
  slot1       : SlotState
  slot2       : SlotState
  txing       : Bool
  txqueue     : Nat
  lasttx      : LastTx
  transStart  : Tick
  mediaSelect : BitVec 1
  inHandler   : Bool
  irqMasked   : Bool
  isOpen      : Bool
  rxEnabled   : Bool
  mcMode      : McMode
  mcList      : List MacAddr
  mcfilter    : HashTable
  stats       : Stats
  shadow      : Shadow
  trace       : List Event
  fault       : Option Fault
  mem         : Memory
  delivered   : List (List Byte)
  returned    : RetVal
  operands    : CmdOperands
  env         : Env
  cmds        : List Command
deriving DecidableEq, Repr

/-- The state right after attach (R24, 70_reset_and_hazards.md R276, R278), for a given configuration. -/
def State.attach (cfg : Cfg) : State where
  cfg         := cfg
  currentPage := none
  slot1       := .free
  slot2       := .free
  txing       := false
  txqueue     := 0
  lasttx      := .none
  transStart  := 0#32
  mediaSelect := 0#1
  inHandler   := false
  irqMasked   := false
  isOpen      := false
  rxEnabled   := false
  mcMode      := .list
  mcList      := []
  mcfilter    := Vector.replicate 8 0x00#8
  stats       := {}
  shadow      := Vector.replicate 41 none
  trace       := []
  fault       := none
  mem         := []
  delivered   := []
  returned    := .unit
  operands    := {}
  env         := {}
  cmds        := []

/-- The machine after reset: attached with configuration K of 95_test_vectors.md (entry 1). -/
def State.reset : State := State.attach Cfg.vectorK

end Sys2Proof.Machine
end

