-- ==== Sys2Proof/Machine/Operands.lean ====
section
/-! DEFINITION. Operand and address computations: ring arithmetic (00_scope.md R17), slot pages (10_state.md R27), the computed
next page and payload length (42_receive.md R162, R164), register fields (10_state.md R41), transmit lengths (41_transmit.md R131), elapsed time (R133), the
admission of a configuration (00_scope.md R9, R10), and the numeric codes (30_encoding.md R106, R111, R112). -/

namespace Sys2Proof

/-- The value of a field in a value of its register: bits `hi` down to `lo` (10_state.md R41). -/
def RegField.value (f : RegField) (v : Byte) : Nat := (v.toNat >>> f.lo) % 2 ^ (f.hi + 1 - f.lo)

/-- The bits of a field as a mask (R41). -/
def RegField.mask (f : RegField) : Byte := BitVec.ofNat 8 ((2 ^ (f.hi + 1 - f.lo) - 1) <<< f.lo)

end Sys2Proof

namespace Sys2Proof.Machine

/-! ## Pages and the ring -/

/-- `R`, the ring length in pages (00_scope.md R11). -/
def ringLen (cfg : Cfg) : Int := (cfg.stopPage.toNat : Int) - (cfg.rxStartPage.toNat : Int)

/-- `inRing(p)`: `rxStartPage ≤ p < stopPage` (R17). -/
def inRing (cfg : Cfg) (p : Byte) : Bool :=
  decide (cfg.rxStartPage.toNat ≤ p.toNat ∧ p.toNat < cfg.stopPage.toNat)

/-- `ringSucc(p)` (R17). -/
def ringSucc (cfg : Cfg) (p : Byte) : Byte := if p + 1 = cfg.stopPage then cfg.rxStartPage else p + 1

/-- `ringPred(p)` (R17). -/
def ringPred (cfg : Cfg) (p : Byte) : Byte := if p = cfg.rxStartPage then cfg.stopPage - 1 else p - 1

/-- The first byte address of a page (20_memory.md R48). -/
def pageAddr (p : Byte) : Nat := p.toNat * 256

/-- Where the `k`-th byte of a ring copy from `offset` comes from: past `stopPage × 256 − 1` the copy goes on at
`rxStartPage × 256` (20_memory.md R74). -/
def ringAddr (cfg : Cfg) (offset : Half) (k : Nat) : Nat :=
  let a := offset.toNat + k
  let stop := pageAddr cfg.stopPage
  let start := pageAddr cfg.rxStartPage
  if a < stop then a else start + (a - stop) % (stop - start)

/-- The other slot: `3 − i` (41_transmit.md R151). -/
def Slot.other : Slot → Slot
  | .one => .two
  | .two => .one

/-- Membership in `Slots` (10_state.md R28). -/
def Slot.exists (cfg : Cfg) : Slot → Bool
  | .one => true
  | .two => cfg.numTxSlots == .two

/-- `slotPage(i)` (10_state.md R27). -/
def slotPage (cfg : Cfg) : Slot → Byte
  | .one => cfg.txStartPage
  | .two => cfg.txStartPage + cfg.txSlot2Offset

/-! ## Receive lengths -/

/-- `ceil(x / n)` on Int, rounding toward +∞ (00_scope.md R13, 42_receive.md R162). -/
def ceilDiv (x : Int) (n : Nat) : Int := -((-x) / (n : Int))

/-- DOC's next-frame formula: `this + ceil((count − hdrLen) / pageSize)`, not wrapped (R162). -/
def docNextFrame (cfg : Cfg) (this : Byte) (count : Half) : Int :=
  (this.toNat : Int) + ceilDiv ((count.toNat : Int) - (cfg.hdrLen : Int)) cfg.pageSize

/-- The driver's formula `this + 1 + floor(count / 256)` (93_implementation_defined.md G31). -/
def driverNextFrame (this : Byte) (count : Half) : Int := (this.toNat : Int) + 1 + ((count.toNat / 256 : Nat) : Int)

/-- `cfg.nextFrameFn` applied (R162, entry 7). -/
def nextFrame (cfg : Cfg) (this : Byte) (count : Half) : Int :=
  match cfg.nextFrameFn with
  | .doc => docNextFrame cfg this count
  | .driver => driverNextFrame this count
  | .table rows =>
    match rows.find? (fun r => r.page == this && r.count == count) with
    | some r => r.result
    | none => docNextFrame cfg this count

/-- `pktLen = hdr.count − hdrLen` on Int (R164). -/
def payloadLen (cfg : Cfg) (hdr : Hdr) : Int := (hdr.count.toNat : Int) - (cfg.hdrLen : Int)

/-- The byte address of the payload, `this × 256 + hdrLen` (R164, 20_memory.md R56). -/
def payloadOffset (cfg : Cfg) (this : Byte) : Half := BitVec.ofNat 16 (pageAddr this + cfg.hdrLen)

/-- The four bytes of a header in chip memory: status, next, count low byte first (20_memory.md R54). It binds a board model
only: no engine rule reads them. -/
def headerBytes (h : Hdr) : List Byte := [h.status, h.next, lowByte h.count, highByte h.count]

/-! ## Transmit operands -/

/-- `sendLen = max(len, ethZlen)` (41_transmit.md R131), a u16 (10_state.md R26). DESIGN CHOICE (entry 29), unsafe: for an `ethZlen`
above 65535, which 00_scope.md R9 and R10 do not exclude, the spec states no length, and the model takes it modulo 65536. -/
def sendLen (cfg : Cfg) (len : Half) : Half := BitVec.ofNat 16 (max len.toNat cfg.ethZlen)

/-- `elapsed(now) = (now − transStart) mod 2^32` (R133). -/
def elapsed (now start : Tick) : Nat := (now - start).toNat

/-- Byte `k` of a host buffer: as listed, a free value past the bytes listed (20_memory.md R51, entry 13). -/
def hostByte (data : List Byte) (draw k : Nat) : Byte := data.getD k (Config.freeHostByte draw k)

/-- The first `n` bytes of a host buffer. -/
def hostBytes (data : List Byte) (draw n : Nat) : List Byte := (List.range n).map (hostByte data draw)

/-! ## The multicast mode operand -/

/-- The mode of `md` (30_encoding.md R88); none for `11`, which is reserved. -/
def McMode.ofBits? (md : BitVec 2) : Option McMode :=
  if md = 0#2 then some .list
  else if md = 1#2 then some .allMulti
  else if md = 2#2 then some .promisc
  else none

/-! ## Admission of a configuration -/

/-- The types of 00_scope.md R9 that `Cfg`'s own types do not enforce: `maxRxIter, maxService ≥ 1`, `overrunWaitMin ≥ 1.6 ms`
(1600 µs), a page of at least one byte (entry 9). -/
def inRangeCfg (cfg : Cfg) : Bool :=
  decide (1 ≤ cfg.maxRxIter ∧ 1 ≤ cfg.maxService ∧ 1600 ≤ cfg.overrunWaitMin ∧ 1 ≤ cfg.pageSize)

/-- The end of the transmit region, a page count (R10 item 3). -/
def txEnd (cfg : Cfg) : Nat := cfg.txStartPage.toNat + cfg.numTxSlots.toNat * cfg.txSlot2Offset.toNat

/-- The four conditions of R10: a ring of at least two pages, the transmit region inside 0..255 and apart from the ring, and a
slot region that holds the longest frame. -/
def regionsSound (cfg : Cfg) : Bool :=
  decide (cfg.rxStartPage.toNat < cfg.stopPage.toNat
    ∧ 2 ≤ ringLen cfg
    ∧ txEnd cfg ≤ 256
    ∧ min (txEnd cfg) cfg.stopPage.toNat ≤ max cfg.txStartPage.toNat cfg.rxStartPage.toNat
    ∧ cfg.ethFrameLen ≤ cfg.txSlot2Offset.toNat * cfg.pageSize)

/-- A configuration an instance is created with (R10, 60_exceptions.md R251). -/
def admitted (cfg : Cfg) : Bool := inRangeCfg cfg && regionsSound cfg

/-! ## Numeric codes -/

/-- The result codes of SUBMIT (30_encoding.md R106). -/
def SubmitResult.code : SubmitResult → Nat
  | .queued => 0
  | .busy => 1
  | .retransmitting => 2

/-- The fault codes (R111). -/
def Fault.code : Fault → Byte
  | .unsetState => 0x80
  | .currOutOfRing => 0x81

/-- The log codes (R112). -/
def LogKind.code : LogKind → Byte
  | .irqReentrant => 0x01
  | .irqWhileMasked => 0x02
  | .irqWhileClosed => 0x03
  | .serviceBudgetExhausted _ => 0x04
  | .ringCorrupt _ _ _ => 0x10
  | .rxLength _ => 0x11
  | .rxStatusError _ => 0x12
  | .rxNoBuffer _ => 0x13
  | .bogusLastTx _ _ => 0x20
  | .unexpectedTxDone _ => 0x21
  | .noFreeSlot => 0x22
  | .txTimeout _ => 0x23
  | .txErrorClass _ => 0x24
  | .collisionWhileIdle => 0x25
  | .submitClosed => 0x26
  | .overrun _ _ => 0x30

end Sys2Proof.Machine
end

