-- ==== Sys2Proof/Machine/Flags.lean ====
section
/-! DEFINITION. Every Boolean the operations test: `busy` (10_state.md R29), the bit tests of the values read (30_encoding.md
R100 to R104), header consistency and the length window (42_receive.md R163, R165), the receive mode (30_encoding.md R97), and
the guards (30_encoding.md R91, 43_interrupt.md R188). -/

namespace Sys2Proof.Machine

/-- Some bit of `mask` is set in `v`. -/
def hasBit (v mask : Byte) : Bool := v &&& mask != 0x00#8

/-! ## Slots -/

/-- `s.slot[i]`. -/
def State.slot (s : State) : Slot → SlotState
  | .one => s.slot1
  | .two => s.slot2

/-- `busy(s)`: every existing slot is occupied (10_state.md R29). -/
def State.busy (s : State) : Bool :=
  match s.cfg.numTxSlots with
  | .one => s.slot1 != .free
  | .two => s.slot1 != .free && s.slot2 != .free

/-- The slot SUBMIT takes: slot 1 if free, else slot 2 if it exists and is free (41_transmit.md R130). -/
def State.freeSlot (s : State) : Option Slot :=
  if s.slot1 = .free then some .one
  else if Slot.two.exists s.cfg && s.slot2 == .free then some .two
  else none

/-- The slot in `sending`, slot 1 first (R143). -/
def State.sendingSlot (s : State) : Option Slot :=
  if s.slot1 = .sending then some .one
  else if Slot.two.exists s.cfg && s.slot2 == .sending then some .two
  else none

/-- The length of slot `i` when it exists and is `loaded(L)` (R145). -/
def State.loadedLen (s : State) (i : Slot) : Option Half :=
  if i.exists s.cfg then
    match s.slot i with
    | .loaded len => some len
    | .free | .sending => none
  else none

/-- `lasttx` says slot `i` was the last started (R144). -/
def LastTx.started (l : LastTx) (i : Slot) : Bool := l == .startedBySubmit i || l == .startedByCompletion i

/-! ## Bit tests of values read -/

/-- `rxOk(status)`: PRX set and CRC, FAE, FO clear (30_encoding.md R103). -/
def rxOk (m : ChipMap) (status : Byte) : Bool :=
  status &&& (m.rsrPrx ||| m.rsrCrc ||| m.rsrFae ||| m.rsrFo) == m.rsrPrx

/-- `txAborted(tsr)` (R104). -/
def txAborted (m : ChipMap) (tsr : Byte) : Bool := hasBit tsr (m.tsrAbt ||| m.tsrFu)

/-- The collision count of an NCR value: the field `chipMap` names, bits 3:0 by default (R102, 10_state.md R41). -/
def collisionCount (m : ChipMap) (ncr : Byte) : Nat := m.ncrCount.value ncr

/-! ## Receive tests -/

/-- A header is consistent iff its next page is within the tolerance of the computed one and in the ring (42_receive.md R163). -/
def consistent (cfg : Cfg) (next : Byte) (computed : Int) : Bool :=
  cfg.wrapTol.any (fun d => (next.toNat : Int) == computed + d) && inRing cfg next

/-- `ethZlen ≤ pktLen ≤ ethFrameLen + hdrLen` (R165). -/
def lengthInRange (cfg : Cfg) (pktLen : Int) : Bool :=
  decide ((cfg.ethZlen : Int) ≤ pktLen ∧ pktLen ≤ (cfg.ethFrameLen : Int) + (cfg.hdrLen : Int))

/-! ## Receive mode -/

/-- `rcrMode(s)` (30_encoding.md R97). -/
def rcrMode (m : ChipMap) (mode : McMode) (list : List MacAddr) : Byte :=
  match mode with
  | .promisc => m.rcrBase ||| m.rcrPro ||| m.rcrAm
  | .allMulti => m.rcrBase ||| m.rcrAm
  | .list => if list.isEmpty then m.rcrBase else m.rcrBase ||| m.rcrAm

/-! ## Guards -/

/-- The dispatcher's guard, in order: closed, already inside, masked (43_interrupt.md R188). None lets it service. -/
def irqGuard (s : State) : Option LogKind :=
  if !s.isOpen then some .irqWhileClosed
  else if s.inHandler then some .irqReentrant
  else if s.irqMasked then some .irqWhileMasked
  else none

/-- The premise `internalCall` (30_encoding.md R91). -/
def internalCall (s : State) : Bool := s.isOpen && s.inHandler && !s.irqMasked

/-- Whether an issuer may issue an operation: an internal one only from a test harness under `internalCall` (R90, R91). -/
def mayIssue (c : Issuer) (op : Op) (s : State) : Bool :=
  match op.cls with
  | .host | .irq => true
  | .internal => c == .harness && internalCall s

end Sys2Proof.Machine
end

