-- ==== Sys2Proof/Machine/Ops.lean ====
section
/-! DEFINITION. The primitives of 00_scope.md R16 over the state: trace, chip register port, board callbacks, upward request,
counters, chip buffer memory, `raise`; interrupt masking, entry, exit and nesting; and taking the next command. -/

namespace Sys2Proof.Machine

/-! ## Chip buffer memory -/

/-- The byte at an address; none where nothing has been written (20_memory.md R48, entry 11). -/
def Memory.read : Memory → Nat → Option Byte
  | [], _ => none
  | (a, b) :: rest, x => if x = a then some b else Memory.read rest x

/-- Store one byte, keeping addresses strictly rising. -/
def Memory.write : Memory → Nat → Byte → Memory
  | [], x, v => [(x, v)]
  | (a, b) :: rest, x, v =>
    if x < a then (x, v) :: (a, b) :: rest
    else if x = a then (x, v) :: rest
    else (a, b) :: Memory.write rest x v

/-- The address of byte `k` of a copy to `page`: 16-bit (R48, R75, entry 21). -/
def copyAddr (page : Byte) (k : Nat) : Nat := (pageAddr page + k) % 65536

/-- `MemWrite(page × 256, count, src)`: byte `k + i` of the copy for each listed byte `i` (R75). -/
def Memory.copyIn (page : Byte) : Memory → Nat → List Byte → Memory
  | m, _, [] => m
  | m, k, b :: rest => Memory.copyIn page (m.write (copyAddr page k) b) (k + 1) rest

/-- The canonical form: addresses strictly rising and below 65,536. -/
abbrev Memory.wf (m : Memory) : Prop := m.Pairwise (fun c d => c.1 < d.1) ∧ ∀ c ∈ m, c.1 < 65536

/-! ## Shadow registers and counters -/

/-- `shadow(reg)`: the last value written, none if none was (10_state.md R24). -/
def Shadow.get (sh : Shadow) (r : ChipReg) : Option Byte := Vector.get sh r.index

/-- `shadow(reg) <- v`. -/
def Shadow.put (sh : Shadow) (r : ChipReg) (v : Byte) : Shadow := Vector.set sh r.index.val (some v) r.index.isLt

/-- The value of a counter (10_state.md R37). -/
def Stats.get (t : Stats) : Counter → Nat
  | .rxPackets => t.rxPackets
  | .rxBytes => t.rxBytes
  | .rxErrors => t.rxErrors
  | .rxDropped => t.rxDropped
  | .rxLengthErrors => t.rxLengthErrors
  | .rxFifoErrors => t.rxFifoErrors
  | .rxFrameErrors => t.rxFrameErrors
  | .rxCrcErrors => t.rxCrcErrors
  | .rxMissedErrors => t.rxMissedErrors
  | .rxOverErrors => t.rxOverErrors
  | .txPackets => t.txPackets
  | .txErrors => t.txErrors
  | .txAbortedErrors => t.txAbortedErrors
  | .txCarrierErrors => t.txCarrierErrors
  | .txFifoErrors => t.txFifoErrors
  | .txHeartbeatErrors => t.txHeartbeatErrors
  | .txWindowErrors => t.txWindowErrors
  | .collisions => t.collisions

/-- A counter set to a value. -/
def Stats.put (t : Stats) (c : Counter) (n : Nat) : Stats :=
  match c with
  | .rxPackets => { t with rxPackets := n }
  | .rxBytes => { t with rxBytes := n }
  | .rxErrors => { t with rxErrors := n }
  | .rxDropped => { t with rxDropped := n }
  | .rxLengthErrors => { t with rxLengthErrors := n }
  | .rxFifoErrors => { t with rxFifoErrors := n }
  | .rxFrameErrors => { t with rxFrameErrors := n }
  | .rxCrcErrors => { t with rxCrcErrors := n }
  | .rxMissedErrors => { t with rxMissedErrors := n }
  | .rxOverErrors => { t with rxOverErrors := n }
  | .txPackets => { t with txPackets := n }
  | .txErrors => { t with txErrors := n }
  | .txAbortedErrors => { t with txAbortedErrors := n }
  | .txCarrierErrors => { t with txCarrierErrors := n }
  | .txFifoErrors => { t with txFifoErrors := n }
  | .txHeartbeatErrors => { t with txHeartbeatErrors := n }
  | .txWindowErrors => { t with txWindowErrors := n }
  | .collisions => { t with collisions := n }

/-- `Count(c, n)`: add modulo `2 ^ cntWidth` (00_scope.md R16). -/
def State.count (s : State) (c : Counter) (n : Nat) : State :=
  { s with stats := s.stats.put c ((s.stats.get c + n) % 2 ^ s.cfg.cntWidth) }

/-- `Count(c)` when a condition holds. -/
def State.countIf (s : State) (b : Bool) (c : Counter) : State := if b then s.count c 1 else s

/-! ## Trace -/

/-- Append one event (10_state.md R44). -/
def State.emit (s : State) (e : Event) : State := { s with trace := s.trace ++ [e] }

/-- `Log(kind)` (30_encoding.md R109). -/
def State.log (s : State) (k : LogKind) : State := s.emit (.log k)

/-- The value an operation returns (R107, R108, entry 18). -/
def State.returning (s : State) (v : RetVal) : State := { s with returned := v }

/-- `Result(op, value)`: the return of an operation an agent issued (R108). -/
def State.finish (s : State) (op : Op) (v : RetVal) : State := (s.emit (.result op v)).returning v

/-- `Wait(d)`: one event, no other change (60_exceptions.md R262). -/
def State.wait (s : State) (d : Nat) : State := s.emit (.wait d)

/-- `raise Fault(kind)` (60_exceptions.md R250): the fault is set, nothing is appended, what was done before stands. -/
def State.raise (s : State) (k : Fault) : State := { s with fault := some k }

/-- The rest of an operation, skipped when a fault has been raised (R250). -/
def State.andThen (s : State) (f : State → State) : State := if s.fault.isSome then s else f s

/-! ## The chip register port -/

/-- `ChipWrite(reg, v)`: one event, and the shadow takes the value (10_state.md R44). -/
def State.chipWrite (s : State) (r : ChipReg) (v : Byte) : State :=
  { s with shadow := s.shadow.put r v, trace := s.trace ++ [.chipW r v] }

/-- Chip writes in order. -/
def State.chipWrites (s : State) : List (ChipReg × Byte) → State
  | [] => s
  | (r, v) :: rest => (s.chipWrite r v).chipWrites rest

/-- The first listed answer under a key, and the list without it (30_encoding.md R92). -/
def takeFirst {κ α : Type} [DecidableEq κ] (k : κ) : List (κ × α) → Option (α × List (κ × α))
  | [] => none
  | (k', a) :: rest =>
    if k = k' then some (a, rest)
    else match takeFirst k rest with
      | some (a', rest') => some (a', (k', a) :: rest')
      | none => none

/-- The Chip's answer to a read of a register: the next listed one, else a free value (20_memory.md R66, entry 5). -/
def Env.chipAnswer (e : Env) (r : ChipReg) : Byte × Env :=
  match takeFirst r e.chip with
  | some (v, rest) => (v, { e with chip := rest, draws := e.draws + 1 })
  | none => (Config.freeChip r e.draws, { e with draws := e.draws + 1 })

/-- `ChipRead(reg)`: the answer and the state after it (00_scope.md R16). -/
def State.chipRead (s : State) (r : ChipReg) : Byte × State :=
  ((s.env.chipAnswer r).1,
    { s with env := (s.env.chipAnswer r).2, trace := s.trace ++ [.chipR r (s.env.chipAnswer r).1] })

/-! ## The board and the upward layer -/

/-- The Board's answer for a page (20_memory.md R73). -/
def Env.headerAnswer (e : Env) (page : Byte) : Hdr × Env :=
  match takeFirst page e.headers with
  | some (h, rest) => (h, { e with headers := rest, draws := e.draws + 1 })
  | none => (Config.freeHeader e.draws, { e with draws := e.draws + 1 })

/-- `Board.getHeader(page)` (R73). -/
def State.getHeader (s : State) (page : Byte) : Hdr × State :=
  ((s.env.headerAnswer page).1,
    { s with env := (s.env.headerAnswer page).2
             trace := s.trace ++ [.getHeader page (s.env.headerAnswer page).1] })

/-- The Upward layer's answer for a length (R76). -/
def Env.grantAnswer (e : Env) (len : Nat) : Bool × Env :=
  match takeFirst len e.grants with
  | some (g, rest) => (g, { e with grants := rest, draws := e.draws + 1 })
  | none => (Config.freeGrant e.draws, { e with draws := e.draws + 1 })

/-- `Up.getBuffer(len)`: whether a buffer came back (R76). -/
def State.getBuffer (s : State) (len : Nat) : Bool × State :=
  ((s.env.grantAnswer len).1,
    { s with env := (s.env.grantAnswer len).2
             trace := s.trace ++ [.getBuffer len (s.env.grantAnswer len).1] })

/-- `Board.blockIn(count, buf, offset)`: the granted buffer is filled from the ring, each byte a free value of its address
(R67, R74, entry 12). -/
def State.blockIn (s : State) (count : Nat) (offset : Half) : State :=
  { s with delivered := s.delivered ++
             [(List.range count).map (fun k => Config.freeRingByte s.env.draws (ringAddr s.cfg offset k))]
           env := { s.env with draws := s.env.draws + 1 }
           trace := s.trace ++ [.blockIn count offset] }

/-- `Board.blockOut(count, data, page)`: `count` bytes of the host buffer into chip memory from the start of `page` (R75). -/
def State.blockOut (s : State) (count : Nat) (data : List Byte) (page : Byte) : State :=
  { s with mem := Memory.copyIn page s.mem 0 (hostBytes data s.env.draws count)
           env := { s.env with draws := s.env.draws + 1 }
           trace := s.trace ++ [.blockOut count page] }

/-- `Board.resetChip(media)` with the media choice held (R71). -/
def State.resetChip (s : State) : State := s.emit (.resetChip s.mediaSelect)

/-! ## Slots -/

/-- `s.slot[i] <- v`. -/
def State.setSlot (s : State) (i : Slot) (v : SlotState) : State :=
  match i with
  | .one => { s with slot1 := v }
  | .two => { s with slot2 := v }

/-! ## Interrupts -/

/-- Critical-section entry (20_memory.md R82, 41_transmit.md R139). -/
def State.maskIrq (s : State) : State := { s.chipWrite .imr s.cfg.chipMap.imrNone with irqMasked := true }

/-- Critical-section exit (R82, R139). -/
def State.unmaskIrq (s : State) : State := { s.chipWrite .imr s.cfg.chipMap.imrAll with irqMasked := false }

/-- Interrupt entry past the guard: the reentrancy flag, then the window write (43_interrupt.md R191, R192, 60_exceptions.md
R249). -/
def State.irqEntry (s : State) : State := { s with inHandler := true }.chipWrite .cr s.cfg.chipMap.crWindow0

/-- Interrupt exit: the flag is cleared, IMR is not written (43_interrupt.md R199, 60_exceptions.md R253). -/
def State.irqExit (s : State) : State := { s with inHandler := false }.finish .IRQ .unit

/-- An `IRQ` step stopped by the guard: it logs and returns (43_interrupt.md R188). -/
def State.irqTurnedAway (s : State) (k : LogKind) : State := (s.log k).finish .IRQ .unit

/-- An `IRQ` step that lands at a preemption point. The guard holds there (R189); no other step is admitted at the point
(20_memory.md R80). -/
def State.nestedIrq (s : State) : State :=
  match irqGuard s with
  | some k => s.irqTurnedAway k
  | none => s

/-- `n` nested `IRQ` steps, one after the other. -/
def State.nestedIrqs (s : State) : Nat → State
  | 0 => s
  | n + 1 => s.nestedIrq.nestedIrqs n

/-- A preemption point, P_SUBMIT or P_IRQ: as many nested steps as the next listed number says, none if none is listed
(R80, entry 6). -/
def State.preempt (s : State) : State :=
  match s.env.nested with
  | [] => s
  | n :: rest => { s with env := { s.env with nested := rest } }.nestedIrqs n

/-! ## Taking a command -/

/-- The next command and the state in which its operation runs: the command is taken off the list, its side-band operands are
at hand (30_encoding.md R86, entry 4). -/
def State.takeCommand (s : State) : Option (Command × State) :=
  match s.cmds with
  | [] => none
  | c :: rest => some (c, { s with cmds := rest, operands := c.operands })

/-- What the next step runs: nothing when no command waits, else the instruction and the state it runs in; or why it is refused
(30_encoding.md R90, R91, 60_exceptions.md R251). -/
def fetch (s : State) : Except Refusal (Option (Instr × State)) :=
  if !admitted s.cfg then .error .inadmissibleConfig
  else
    match s.takeCommand with
    | none => .ok none
    | some (c, t) =>
      match decode c.word with
      | .error _ => .error .illegalCommandWord
      | .ok i => if mayIssue c.issuer i.op s then .ok (some (i, t)) else .error .internalOpcode

/-- The state with a command before every other: how a command comes from outside the machine (entry 4). -/
def State.withCommand (s : State) (c : Command) : State := { s with cmds := c :: s.cmds }

/-- The agent that issues an operation: its class's agent, the test harness for an internal opcode (R89, R91). -/
def issuerOf (op : Op) : Issuer :=
  match op.cls with
  | .host => .host
  | .irq => .irq
  | .internal => .harness

/-- What the premise `internalCall` asks, established for an internal opcode and nothing for the others (R91, entry 15). -/
def State.withPremise (s : State) (op : Op) : State :=
  match op.cls with
  | .host | .irq => s
  | .internal => { s with isOpen := true, inHandler := true, irqMasked := false }

end Sys2Proof.Machine
end

