-- ==== Sys2Proof/Machine/Receive.lean ====
section
/-! DEFINITION. The receive ring walker DRAIN (42_receive.md). -/

namespace Sys2Proof.Machine

/-- Resync on corruption (R170). -/
def resync (rxing this : Byte) (next : Byte) (computed : Int) (s : State) : State :=
  (({ s with currentPage := some rxing }.chipWrite .bnry (ringPred s.cfg rxing)).count .rxErrors 1).log
    (.ringCorrupt this next computed)

/-- A length error: counted, logged, dropped (R171). -/
def lengthError (pktLen : Int) (s : State) : State :=
  ((s.count .rxErrors 1).count .rxLengthErrors 1).log (.rxLength pktLen)

/-- A status failure: classified, logged, dropped (R173). -/
def statusError (status : Byte) (s : State) : State :=
  let m := s.cfg.chipMap
  ((((s.count .rxErrors 1).countIf (hasBit status m.rsrFo) .rxFifoErrors).countIf
    (hasBit status m.rsrFae) .rxFrameErrors).countIf (hasBit status m.rsrCrc) .rxCrcErrors).log
    (.rxStatusError status)

/-- Delivery into a granted buffer, or a drop; the number delivered (R172). -/
def deliver (this : Byte) (pktLen : Int) (s : State) : Nat × State :=
  let (granted, s) := s.getBuffer pktLen.toNat
  if granted then
    (1, ((s.blockIn pktLen.toNat (payloadOffset s.cfg this)).count .rxPackets 1).count .rxBytes pktLen.toNat)
  else (0, (s.count .rxDropped 1).log (.rxNoBuffer pktLen))

/-- Advance to the header's next page and release the pages behind it (R174, R168). -/
def advance (next : Byte) (s : State) : State :=
  { s with currentPage := some next }.chipWrite .bnry (ringPred s.cfg next)

/-- What one iteration leaves: whether the walk goes on, the frames it delivered, the state. -/
structure Walked where
  more : Bool
  got  : Nat
  st   : State

/-- The part of an iteration past the empty test, on header `hdr` of page `this` (R166, R169). -/
def handleFrame (rxing this : Byte) (hdr : Hdr) (s : State) : Walked :=
  let pktLen := payloadLen s.cfg hdr
  let computed := nextFrame s.cfg this hdr.count
  if !consistent s.cfg hdr.next computed then ⟨true, 0, resync rxing this hdr.next computed s⟩
  else if !lengthInRange s.cfg pktLen then ⟨true, 0, advance hdr.next (lengthError pktLen s)⟩
  else if rxOk s.cfg.chipMap hdr.status then
    let (got, s) := deliver this pktLen s
    ⟨true, got, advance hdr.next s⟩
  else ⟨true, 0, advance hdr.next (statusError hdr.status s)⟩

/-- One iteration: CURR, the fault tests, the empty test, the frame (R160, R161, R166). -/
def walkOne (s : State) : Walked :=
  let (rxing, s) := s.chipRead .curr
  if !inRing s.cfg rxing then ⟨false, 0, s.raise .currOutOfRing⟩
  else
    match s.currentPage with
    | none => ⟨false, 0, s.raise .unsetState⟩
    | some this =>
      if this = rxing then ⟨false, 0, s⟩
      else
        let (hdr, s) := s.getHeader this
        handleFrame rxing this hdr s

/-- At most `n` iterations; the frames delivered and the state (R159). -/
def walk : Nat → State → Nat × State
  | 0, s => (0, s)
  | n + 1, s =>
    let w := walkOne s
    if w.more then
      let rest := walk n w.st
      (w.got + rest.1, rest.2)
    else (w.got, w.st)

/-- `DRAIN()` (R166): the number delivered and the state. -/
def drain (s : State) : Nat × State := walk s.cfg.maxRxIter s

/-- DRAIN as an operation: it returns the number delivered (30_encoding.md R107). -/
def execDrain (s : State) : Host.Outcome State Fault Refusal :=
  let r := drain s
  .next (r.2.returning (.delivered r.1))

end Sys2Proof.Machine
end

