-- ==== Sys2Proof/Machine/Overrun.lean ====
section
/-! DEFINITION. Overrun recovery OVERRUN_RECOVER (44_overrun.md). -/

namespace Sys2Proof.Machine

/-- Step 4: read ISR only if a transmit was in progress; resend unless it has posted PTX or TXE (R205). -/
def resendTest (wasTxing : Bool) (s : State) : Bool × State :=
  if wasTxing then
    let (isr, s) := s.chipRead .isr
    (!hasBit isr (s.cfg.chipMap.isrPtx ||| s.cfg.chipMap.isrTxe), s)
  else (false, s)

/-- Steps 1 to 3: transmit in progress?, stop, wait, remote byte count to zero (R202 to R204, R217). -/
def overrunStop (s : State) : Bool × State :=
  let (cr, s) := (s.count .rxOverErrors 1).chipRead .cr
  (hasBit cr s.cfg.chipMap.crTxp,
    ((s.chipWrite .cr s.cfg.chipMap.crStop).wait s.cfg.overrunWaitMin).chipWrites
      [(.rbcr0, 0x00#8), (.rbcr1, 0x00#8)])

/-- Step 5: loopback, then restart (R206). -/
def overrunRestart (s : State) : State :=
  s.chipWrites [(.tcr, s.cfg.chipMap.tcrLoopback), (.cr, s.cfg.chipMap.crStart)]

/-- The end of step 6 and step 7: acknowledge OVW, normal mode, resend (R207, R208, R213). -/
def overrunFinish (wasTxing mustResend : Bool) (s : State) : State :=
  let s := s.chipWrites [(.isr, s.cfg.chipMap.isrOvw), (.tcr, s.cfg.chipMap.tcrNormal)]
  let s := if mustResend then s.chipWrite .cr s.cfg.chipMap.crTrans else s
  s.log (.overrun wasTxing mustResend)

/-- `OVERRUN_RECOVER(now)` (R216). A fault of its DRAIN ends it there. -/
def overrunRecover (s : State) : State :=
  let (wasTxing, s) := overrunStop s
  let (mustResend, s) := resendTest wasTxing s
  (drain (overrunRestart s)).2.andThen (overrunFinish wasTxing mustResend)

/-- OVERRUN_RECOVER as an operation (R216). -/
def execOverrunRecover (s : State) : Host.Outcome State Fault Refusal :=
  .next ((overrunRecover s).returning .unit)

end Sys2Proof.Machine
end

