-- ==== Sys2Proof/Machine/Multicast.lean ====
section
/-! DEFINITION. The multicast hash-filter builder: the CRC, the table, MC_REBUILD and SET_MULTICAST (45_multicast.md). -/

namespace Sys2Proof.Machine

/-- The Autodin-II/Ethernet generator without its top term (R220). PRESUMED (entry 14): general knowledge, as the spec marks. -/
def mcPoly : Word := 0x04C11DB7

/-- One bit of the CRC: feedback is the register's top bit against the data bit (R220). -/
def mcCrcBit (crc : Word) (bit : Bool) : Word :=
  let shifted := crc <<< 1
  if Bool.xor (crc.getLsbD 31) bit then shifted ^^^ mcPoly else shifted

/-- One byte, least significant bit first (R220). -/
def mcCrcByte (crc : Word) (b : Byte) : Word :=
  ([0, 1, 2, 3, 4, 5, 6, 7].map b.getLsbD).foldl mcCrcBit crc

/-- `mcCrc(a)`: seeded at all ones, bytes in address order, no final complement (R220). -/
def mcCrc (a : MacAddr) : Word := a.toList.foldl mcCrcByte 0xFFFFFFFF#32

/-- `mcIndex(a)`: the 6 most significant bits (R221). -/
def mcIndex (a : MacAddr) : Nat := ((mcCrc a).extractLsb' 26 6).toNat

/-- Byte `m` of the table of a list: bit `k & 7` of byte `k >> 3` for each index `k` (R222, 10_state.md R36). -/
def mcByte (list : List MacAddr) (m : Nat) : Byte :=
  list.foldl
    (fun t a => if mcIndex a / 8 = m then t ||| (1#8 <<< (mcIndex a % 8)) else t) 0x00#8

/-- `mcTable(mode, list)` (R222). -/
def mcTable (mode : McMode) (list : List MacAddr) : HashTable :=
  match mode with
  | .allMulti | .promisc => Vector.replicate 8 0xFF#8
  | .list => Vector.ofFn (fun m => mcByte list m.val)

/-- The writes of MAR0 to MAR7, in that order (R227). -/
def marWrites (t : HashTable) : List (ChipReg × Byte) := (List.finRange 8).map (fun m => (.mar m, t.get m))

/-- The receive mode restored after a table write (R228). -/
def restoredRcr (s : State) : Byte :=
  if s.rxEnabled then rcrMode s.cfg.chipMap s.mcMode s.mcList else s.cfg.chipMap.rcrOff

/-- `MC_REBUILD()` (R233): receive off, the eight table bytes, receive mode restored. -/
def mcRebuild (s : State) : State :=
  let t := mcTable s.mcMode s.mcList
  { (s.chipWrite .rcr s.cfg.chipMap.rcrOff).chipWrites (marWrites t) with mcfilter := t }.chipWrite .rcr (restoredRcr s)

/-- MC_REBUILD as an operation: it returns the table it wrote and appends no result (R233, R234, 30_encoding.md R108). -/
def execMcRebuild (s : State) : Host.Outcome State Fault Refusal :=
  .next ((mcRebuild s).returning (.table (mcTable s.mcMode s.mcList)))

/-- SET_MULTICAST with a mode (R235). -/
def setMulticast (mode : McMode) (s : State) : State :=
  (mcRebuild { s with mcMode := mode, mcList := s.operands.list }).finish .SET_MULTICAST .unit

/-- `SET_MULTICAST(md, list)` (R235): refused for `md = 11`. -/
def execSetMulticast (md : BitVec 2) (s : State) : Host.Outcome State Fault Refusal :=
  match McMode.ofBits? md with
  | some mode => .next (setMulticast mode s)
  | none => .refused .illegalCommandWord

end Sys2Proof.Machine
end

