-- ==== Sys2Proof/Machine/Bringup.lean ====
section
/-! DEFINITION. Chip bring-up and lifecycle: INIT, OPEN, CLOSE, GET_STATS (40_bringup.md). -/

namespace Sys2Proof.Machine

/-- The station address writes, PAR0 to PAR5 (R122). -/
def parWrites (a : MacAddr) : List (ChipReg × Byte) := (List.finRange 6).map (fun i => (.par i, a.get i))

/-- The 19 programming writes of INIT, in order (R116, R117, R122). -/
def programWrites (cfg : Cfg) : List (ChipReg × Byte) :=
  [ (.cr, cfg.chipMap.crStop), (.dcr, cfg.dcrValue), (.rbcr0, 0x00#8), (.rbcr1, 0x00#8),
    (.rcr, cfg.chipMap.rcrOff), (.tcr, cfg.chipMap.tcrLoopback), (.tpsr, cfg.txStartPage),
    (.pstart, cfg.rxStartPage), (.bnry, cfg.stopPage - 1), (.pstop, cfg.stopPage),
    (.isr, cfg.chipMap.isrAll), (.imr, cfg.chipMap.imrNone) ]
  ++ parWrites cfg.stationAddr
  ++ [ (.curr, cfg.rxStartPage) ]

/-- INIT's bookkeeping: the ring pointer, the slots that exist, and the flags (R115, R119, R122). -/
def resetBookkeeping (s : State) : State :=
  { s with currentPage := some s.cfg.rxStartPage
           slot1 := .free
           slot2 := if Slot.two.exists s.cfg then .free else s.slot2
           txing := false
           txqueue := 0
           inHandler := false
           irqMasked := false
           rxEnabled := false }

/-- The start path: causes, mask, start, transmit mode, and last the receive mode (R117, R121, R122). -/
def startPath (s : State) : State :=
  { s.chipWrites [ (.isr, s.cfg.chipMap.isrAll), (.imr, s.cfg.chipMap.imrAll),
                   (.cr, s.cfg.chipMap.crStart), (.tcr, s.cfg.chipMap.tcrNormal) ] with rxEnabled := true }.chipWrite
    .rcr (rcrMode s.cfg.chipMap s.mcMode s.mcList)

/-- `INIT(start)` without its result (R122). -/
def initialise (start : Bool) (s : State) : State :=
  let programmed := mcRebuild (resetBookkeeping (s.chipWrites (programWrites s.cfg)))
  if start then startPath programmed else programmed

/-- `INIT(start)` (R122). -/
def execInit (start : Bool) (s : State) : Host.Outcome State Fault Refusal :=
  .next ((initialise start s).finish .INIT .unit)

/-- `OPEN` (R124). -/
def execOpen (s : State) : Host.Outcome State Fault Refusal :=
  .next ({ initialise true s with isOpen := true }.finish .OPEN .unit)

/-- `CLOSE` (R126). -/
def execClose (s : State) : Host.Outcome State Fault Refusal :=
  .next ({ s.chipWrites [(.imr, s.cfg.chipMap.imrNone), (.cr, s.cfg.chipMap.crStop)] with
            isOpen := false, rxEnabled := false }.finish .CLOSE .unit)

/-- `GET_STATS` (R127): a copy of the counters, no register read. -/
def execGetStats (s : State) : Host.Outcome State Fault Refusal :=
  .next (s.finish .GET_STATS (.stats s.stats))

end Sys2Proof.Machine
end

