-- ==== Sys2Proof/Machine/Transmit.lean ====
section
/-! DEFINITION. The transmit scheduler: TRIGGER_SEND, TX_TIMEOUT_RESET, SUBMIT, TX_DONE, TX_COLLISION (41_transmit.md). -/

namespace Sys2Proof.Machine

/-- `TRIGGER_SEND(i, L, now)` (R135). -/
def triggerSend (i : Slot) (len : Half) (now : Tick) (s : State) : State :=
  { s.chipWrites [ (.tbcr0, lowByte len), (.tbcr1, highByte len), (.tpsr, slotPage s.cfg i),
                   (.cr, s.cfg.chipMap.crTrans) ] with transStart := now }

/-- TRIGGER_SEND as an operation: slot, length and `now` are side-band operands (R89, R135, entry 19). -/
def execTriggerSend (s : State) : Host.Outcome State Fault Refusal :=
  .next ((triggerSend s.operands.slot s.operands.length s.operands.now s).returning .unit)

/-- The media choice toggles only on silent failure: ISR read 0 and no packet ever sent (R137, 70_reset_and_hazards.md R296). -/
def retryMedia (isr : Byte) (s : State) : State :=
  if isr = 0x00#8 ∧ s.stats.txPackets = 0 then { s with mediaSelect := 1#1 - s.mediaSelect } else s

/-- `TX_TIMEOUT_RESET(now)` (R137): board reset, then full reinitialization. -/
def txTimeoutReset (now : Tick) (s : State) : State :=
  let (isr, s) := s.chipRead .isr
  { initialise true (retryMedia isr (s.log (.txTimeout isr))).resetChip with transStart := now }

/-- TX_TIMEOUT_RESET as an operation (R137). -/
def execTxTimeoutReset (s : State) : Host.Outcome State Fault Refusal :=
  .next ((txTimeoutReset s.operands.now s).returning .unit)

/-! ## Submission -/

/-- Send the loaded slot at once, or leave it queued behind the transmit in flight (R139). -/
def sendOrQueue (i : Slot) (len : Half) (now : Tick) (s : State) : State :=
  if s.txing then { s with txqueue := s.txqueue + 1 }
  else { (triggerSend i len now s).setSlot i .sending with txing := true, lasttx := .startedBySubmit i }

/-- Inside the critical section, past P_SUBMIT: choose a slot, copy, send or queue (R130, R131, R139). -/
def loadSlot (len : Half) (res : SubmitResult) (s : State) : State :=
  match s.freeSlot with
  | none => (s.log .noFreeSlot).unmaskIrq.finish .SUBMIT (.submit .busy)
  | some i =>
    let n := sendLen s.cfg len
    let s := (s.setSlot i (.loaded n)).blockOut len.toNat s.operands.data (slotPage s.cfg i)
    (sendOrQueue i n s.operands.now s).unmaskIrq.finish .SUBMIT (.submit res)

/-- The critical section with its preemption point (R139, 20_memory.md R80). -/
def criticalSection (len : Half) (res : SubmitResult) (s : State) : State :=
  loadSlot len res s.maskIrq.preempt

/-- SUBMIT of an admitted length: closed, then busy, then the critical section (R134, R139). -/
def submitFrame (len : Half) (s : State) : State :=
  if !s.isOpen then (s.log .submitClosed).finish .SUBMIT (.submit .busy)
  else if s.busy then
    if elapsed s.operands.now s.transStart < s.cfg.txTimeout then s.finish .SUBMIT (.submit .busy)
    else criticalSection len .retransmitting (txTimeoutReset s.operands.now s)
  else criticalSection len .queued s

/-- `SUBMIT(len, data, now)` (R139): refused over `ethFrameLen` (R132). -/
def execSubmit (len : Half) (s : State) : Host.Outcome State Fault Refusal :=
  if s.cfg.ethFrameLen < len.toNat then .refused .oversizeFrame else .next (submitFrame len s)

/-! ## Completion -/

/-- `TX_STATS(tsr, ncr)` (R148, R152), `ncr` the collision count. -/
def txStats (tsr : Byte) (ncr : Nat) (s : State) : State :=
  let m := s.cfg.chipMap
  let s := if hasBit tsr m.tsrAbt then (s.count .collisions 16).count .txAbortedErrors 1 else s.count .collisions ncr
  if hasBit tsr m.tsrPtx then s.count .txPackets 1
  else
    ((((s.count .txErrors 1).countIf (hasBit tsr m.tsrCrs) .txCarrierErrors).countIf
      (hasBit tsr m.tsrFu) .txFifoErrors).countIf (hasBit tsr m.tsrCdh) .txHeartbeatErrors).countIf
      (hasBit tsr m.tsrOwc) .txWindowErrors

/-- The `lasttx` check: a mismatch is only logged (R144). -/
def checkLastTx (done : Slot) (s : State) : State :=
  if s.lasttx.started done then s else s.log (.bogusLastTx s.lasttx done)

/-- Start the other slot if it is loaded, else go idle (R145). -/
def promote (done : Slot) (now : Tick) (s : State) : State :=
  match s.loadedLen done.other with
  | some len =>
    { (triggerSend done.other len now s).setSlot done.other .sending with
        txqueue := s.txqueue - 1, lasttx := .startedByCompletion done.other }
  | none => { s with txing := false, lasttx := .idleAfter done }

/-- The slot part of TX_DONE (R143 to R146, R151). -/
def retire (now : Tick) (s : State) : State :=
  match s.sendingSlot with
  | none => s.log (.unexpectedTxDone s.lasttx)
  | some done => promote done now ((checkLastTx done s).setSlot done .free)

/-- `TX_DONE(now)` (R151): status read first, counters last (R147). -/
def txDone (now : Tick) (s : State) : State :=
  let m := s.cfg.chipMap
  let (tsr, s) := s.chipRead .tsr
  let (ncr, s) := s.chipRead .ncr
  txStats tsr (collisionCount m ncr) (retire now s)

/-- TX_DONE as an operation (R151). -/
def execTxDone (s : State) : Host.Outcome State Fault Refusal :=
  .next ((txDone s.operands.now s).returning .unit)

/-! ## Collision retry -/

/-- The slot a collision retries: none when closed, idle, or no slot is `sending` (R153). -/
def retrySlot (s : State) : Option Slot := if s.isOpen && s.txing then s.sendingSlot else none

/-- `TX_COLLISION(now)` (R153). -/
def execTxCollision (s : State) : Host.Outcome State Fault Refusal :=
  match retrySlot s with
  | some i =>
    .next ((s.chipWrites [(.tpsr, slotPage s.cfg i), (.cr, s.cfg.chipMap.crTrans)]).finish .TX_COLLISION .unit)
  | none => .next ((s.log .collisionWhileIdle).finish .TX_COLLISION .unit)

end Sys2Proof.Machine
end

