-- ==== Sys2Proof/Machine/Interrupt.lean ====
section
/-! DEFINITION. The interrupt dispatcher IRQ and the handlers TX_ERROR, COUNTER_DRAIN, RDC_ACK (43_interrupt.md). -/

namespace Sys2Proof.Machine

/-! ## Handlers of this family -/

/-- `TX_ERROR(now)` (R196): an abort is counted by TX_DONE alone (90_conflicts.md C8). -/
def txError (now : Tick) (s : State) : State :=
  let (tsr, s) := s.chipRead .tsr
  let m := s.cfg.chipMap
  let s := s.log (.txErrorClass tsr)
  if txAborted m tsr then txDone now s
  else
    (((s.count .txErrors 1).countIf (hasBit tsr m.tsrCrs) .txCarrierErrors).countIf
      (hasBit tsr m.tsrCdh) .txHeartbeatErrors).countIf (hasBit tsr m.tsrOwc) .txWindowErrors

/-- TX_ERROR as an operation (R196). -/
def execTxError (s : State) : Host.Outcome State Fault Refusal :=
  .next ((txError s.operands.now s).returning .unit)

/-- Read one hardware counter into a software counter (R197). -/
def foldCounter (r : ChipReg) (c : Counter) (s : State) : State :=
  let (v, s) := s.chipRead r
  s.count c v.toNat

/-- `COUNTER_DRAIN()` (R197): CNTR0, CNTR1, CNTR2 in that order. -/
def counterDrain (s : State) : State :=
  foldCounter .cntr2 .rxMissedErrors (foldCounter .cntr1 .rxCrcErrors (foldCounter .cntr0 .rxFrameErrors s))

/-- COUNTER_DRAIN as an operation (R197). -/
def execCounterDrain (s : State) : Host.Outcome State Fault Refusal :=
  .next ((counterDrain s).returning .unit)

/-- `RDC_ACK()` (R198): no event, no change; the acknowledgement is the dispatcher's. -/
def rdcAck (s : State) : State := s

/-- RDC_ACK as an operation (R198). -/
def execRdcAck (s : State) : Host.Outcome State Fault Refusal :=
  .next ((rdcAck s).returning .unit)

/-! ## The dispatcher -/

/-- Step 1 of the routing: overrun, else receive (R184). -/
def routeReceive (v : Byte) (s : State) : State :=
  let m := s.cfg.chipMap
  if hasBit v m.isrOvw then overrunRecover s
  else if hasBit v (m.isrPrx ||| m.isrRxe) then (drain s).2
  else s

/-- Step 2: transmit-done, else transmit-error (R184). -/
def routeTransmit (v : Byte) (now : Tick) (s : State) : State :=
  let m := s.cfg.chipMap
  if hasBit v m.isrPtx then txDone now s
  else if hasBit v m.isrTxe then txError now s
  else s

/-- Step 3: counter-overflow (R184). -/
def routeCounters (v : Byte) (s : State) : State := if hasBit v s.cfg.chipMap.isrCnt then counterDrain s else s

/-- Step 4: remote-DMA-complete (R184). -/
def routeRemote (v : Byte) (s : State) : State := if hasBit v s.cfg.chipMap.isrRdc then rdcAck s else s

/-- `h`, the causes an iteration handles for the cause value `v`; OVW is never among them (R185). -/
def handledCauses (m : ChipMap) (v : Byte) : Byte :=
  (if hasBit v m.isrOvw || hasBit v (m.isrPrx ||| m.isrRxe) then m.isrPrx ||| m.isrRxe else 0x00#8)
    ||| (if hasBit v m.isrPtx then m.isrPtx else if hasBit v m.isrTxe then m.isrTxe else 0x00#8)
    ||| (if hasBit v m.isrCnt then m.isrCnt else 0x00#8)
    ||| (if hasBit v m.isrRdc then m.isrRdc else 0x00#8)

/-- Acknowledge what was handled, if anything, and re-arm (R185, R186). -/
def ackAndRearm (v : Byte) (s : State) : State :=
  let ack := v &&& handledCauses s.cfg.chipMap v
  (if ack = 0x00#8 then s else s.chipWrite .isr ack).chipWrite .cr s.cfg.chipMap.crStart

/-- One serviced iteration: routing, acknowledgement, re-arm (R184 to R186). A fault of a handler ends it there. -/
def serviceRound (now : Tick) (v : Byte) (s : State) : State :=
  (routeReceive v s).andThen fun s => ackAndRearm v (routeRemote v (routeCounters v (routeTransmit v now s)))

/-- P_IRQ, then the one ISR read of an iteration (R183, R193). -/
def pollCauses (s : State) : Byte × State := s.preempt.chipRead .isr

/-- The bulk acknowledgement of an exhausted budget (R194). -/
def bulkAck (v : Byte) (s : State) : State := (s.chipWrite .isr v).log (.serviceBudgetExhausted v)

/-- The service loop with `k` iterations of budget left (R187, R190, R193, R194). -/
def serviceLoop (now : Tick) : Nat → State → State
  | 0, s =>
    let (v, s) := pollCauses s
    if v = 0x00#8 then s else bulkAck v s
  | k + 1, s =>
    let (v, s) := pollCauses s
    if v = 0x00#8 then s else (serviceRound now v s).andThen (serviceLoop now k)

/-- The dispatcher past its guard: entry, loop, exit on every path but a fault (R190 to R199). -/
def dispatchIrq (now : Tick) (s : State) : State :=
  (serviceLoop now s.cfg.maxService s.irqEntry).andThen State.irqExit

/-- `IRQ(now)` (R190). -/
def execIrq (s : State) : Host.Outcome State Fault Refusal :=
  match irqGuard s with
  | some k => .next (s.irqTurnedAway k)
  | none => .next (dispatchIrq s.operands.now s)

end Sys2Proof.Machine
end

