-- ==== Sys2Proof/Machine/Dispatch.lean ====
section
/-! DEFINITION. The meaning of every instruction, one arm per constructor (30_encoding.md R89). -/

namespace Sys2Proof.Machine

-- Host operations, then class irq, then the internal ones, in the table's order.
def exec (i : Instr) (s : State) : Host.Outcome State Fault Refusal :=
  match i with
  | .init start => Sys2Proof.Machine.execInit start s
  | .openInst => Sys2Proof.Machine.execOpen s
  | .closeInst => Sys2Proof.Machine.execClose s
  | .submit len => Sys2Proof.Machine.execSubmit len s
  | .setMulticast md => Sys2Proof.Machine.execSetMulticast md s
  | .getStats => Sys2Proof.Machine.execGetStats s
  | .irq => Sys2Proof.Machine.execIrq s
  | .txCollision => Sys2Proof.Machine.execTxCollision s
  | .drain => Sys2Proof.Machine.execDrain s
  | .txDone => Sys2Proof.Machine.execTxDone s
  | .txError => Sys2Proof.Machine.execTxError s
  | .counterDrain => Sys2Proof.Machine.execCounterDrain s
  | .rdcAck => Sys2Proof.Machine.execRdcAck s
  | .overrunRecover => Sys2Proof.Machine.execOverrunRecover s
  | .mcRebuild => Sys2Proof.Machine.execMcRebuild s
  | .triggerSend => Sys2Proof.Machine.execTriggerSend s
  | .txTimeoutReset => Sys2Proof.Machine.execTxTimeoutReset s

end Sys2Proof.Machine
end

