-- ==== Sys2Proof/Machine/Step.lean ====
section
/-! DEFINITION. One step of the machine (00_scope.md R18, 60_exceptions.md R250, R251, R274). -/

namespace Sys2Proof.Machine

/-- One step: a faulted state takes none (R250, entry 2); a refused input has no meaning (R251, entry 3); with no command
waiting nothing happens (entry 4); otherwise the next command's operation runs to completion. -/
def step (s : State) : Host.Outcome State Fault Refusal :=
  match s.fault with
  | some k => .fault k
  | none =>
    match fetch s with
    | .error r => .refused r
    | .ok none => .next s
    | .ok (some (i, t)) => exec i t

/-- A word of the opcode table given as the machine's next command, by the agent its class names. An internal opcode comes from
the test harness, and the flags its premise asks for are set (entries 4 and 15). -/
def State.withFetchWord (s : State) (nbits w : Nat) : State :=
  match decodeTableWord nbits w with
  | some i => (s.withPremise i.op).withCommand { issuer := issuerOf i.op, word := BitVec.ofNat 32 w }
  | none => s.withCommand { issuer := .host, word := BitVec.ofNat 32 w }

end Sys2Proof.Machine
end

