-- ==== Sys2Proof/Safety.lean ====
section
/-! DEFINITION. What claims mean by a sound state and an ended run: the slot invariants (10_state.md R38), the ring invariant
(R25, R39), counters within their width (R37), the end of a run (60_exceptions.md R275), and the clock premise (R263). -/

namespace Sys2Proof.Machine

/-- How many existing slots are `sending`. -/
def sendingCount (s : State) : Nat :=
  (if s.slot1 = .sending then 1 else 0) + (if Slot.two.exists s.cfg ∧ s.slot2 = .sending then 1 else 0)

/-- Slot state is `loaded(_)`. -/
def SlotState.isLoaded : SlotState → Bool
  | .loaded _ => true
  | .free | .sending => false

/-- How many existing slots are `loaded(_)`. -/
def loadedCount (s : State) : Nat :=
  (if s.slot1.isLoaded then 1 else 0) + (if Slot.two.exists s.cfg ∧ s.slot2.isLoaded then 1 else 0)

/-- How many existing slots are occupied (41_transmit.md R157). -/
def occupiedCount (s : State) : Nat :=
  (if s.slot1 = .free then 0 else 1) + (if Slot.two.exists s.cfg ∧ s.slot2 ≠ .free then 1 else 0)

/-- The five slot invariants (R38). -/
structure SlotInv (s : State) : Prop where
  atMostOneSending : sendingCount s ≤ 1
  txingIffSending  : s.txing = true ↔ sendingCount s = 1
  loadedBehind     : loadedCount s ≠ 0 → s.txing = true
  queueCount       : s.txqueue = loadedCount s
  singleBuffer     : s.cfg.numTxSlots = .one → s.slot1.isLoaded = false ∧ s.txqueue = 0

/-- BNRY stays one page behind `currentPage`, and both stay in the ring (R25), whenever `currentPage` is set; on an open
instance it is set. -/
structure RingInv (s : State) : Prop where
  setWhenOpen : s.isOpen = true → s.currentPage.isSome = true
  inTheRing   : ∀ p, s.currentPage = some p → inRing s.cfg p = true
  oneBehind   : ∀ p, s.currentPage = some p → s.shadow.get .bnry = some (ringPred s.cfg p)

/-- Every counter fits its width (R37). -/
def CountersFit (s : State) : Prop := ∀ c : Counter, s.stats.get c < 2 ^ s.cfg.cntWidth

/-- The answers listed for reads of one register, in order (30_encoding.md R92). -/
def Env.listed (e : Env) (r : ChipReg) : List Byte := (e.chip.filter (fun p => p.1 = r)).map (·.2)

/-- The events of writing registers in order, one each (10_state.md R44). -/
def writeEvents (ws : List (ChipReg × Byte)) : List Event := ws.map (fun w => .chipW w.1 w.2)

/-- The shadow after writing registers in order (R44). -/
def Shadow.putAll (sh : Shadow) (ws : List (ChipReg × Byte)) : Shadow := ws.foldl (fun a w => a.put w.1 w.2) sh

/-- The events of `n` guarded `IRQ` steps landing at a preemption point (20_memory.md R80, 43_interrupt.md R189): a log and a
result each. `g` is what the guard says there. -/
def nestedEvents (g : Option LogKind) (n : Nat) : List Event :=
  match g with
  | none => []
  | some k => (List.replicate n [Event.log k, .result .IRQ .unit]).flatten

/-- What a write event makes of one shadow register. -/
def Event.shadowAfter (r : ChipReg) (cur : Option Byte) : Event → Option Byte
  | .chipW q v => if q = r then some v else cur
  | .chipR _ _ | .resetChip _ | .getHeader _ _ | .blockIn _ _ | .blockOut _ _ | .getBuffer _ _ | .wait _ | .log _
  | .result _ _ => cur

/-- The last value written to a register in a list of events, `cur` when there is none (R44). -/
def lastWrite (r : ChipReg) (cur : Option Byte) (es : List Event) : Option Byte := es.foldl (Event.shadowAfter r) cur

/-- The event is a write of a multicast register. -/
def Event.isMarWrite : Event → Bool
  | .chipW (.mar _) _ => true
  | _ => false

/-- Every write of a multicast register in a list of events finds RCR at `off` (70_reset_and_hazards.md R286); `cur` is what RCR
holds before the list. -/
def marGuarded (off : Byte) : Option Byte → List Event → Bool
  | _, [] => true
  | cur, e :: es => (!e.isMarWrite || cur == some off) && marGuarded off (e.shadowAfter .rcr cur) es

/-- The event is a diagnostic log. -/
def Event.isLog : Event → Bool
  | .log _ => true
  | _ => false

/-- A trace without its diagnostic logs. -/
def noLogs (es : List Event) : List Event := es.filter (fun e => !e.isLog)

/-- The event bounds of 70_reset_and_hazards.md R284. MC_REBUILD, TRIGGER_SEND, TX_TIMEOUT_RESET and RDC_ACK, which its table does
not list, have the counts of their pseudocode. -/
def eventBound (cfg : Cfg) : Instr → Nat
  | .init _ | .openInst => 35
  | .closeInst => 3
  | .getStats => 1
  | .setMulticast _ => 11
  | .submit _ => 45
  | .txCollision => 3
  | .drain => 5 * cfg.maxRxIter
  | .txDone => 7
  | .txError => 9
  | .counterDrain => 3
  | .overrunRecover => 12 + 5 * cfg.maxRxIter
  | .irq => 5 + cfg.maxService * (27 + 5 * cfg.maxRxIter)
  | .mcRebuild => 10
  | .triggerSend => 4
  | .txTimeoutReset => 37
  | .rdcAck => 0

/-- What TX_STATS adds to each counter (41_transmit.md R152), `ncr` the collision count. -/
def txCounts (m : ChipMap) (tsr : Byte) (ncr : Nat) : Counter → Nat
  | .collisions => if hasBit tsr m.tsrAbt then 16 else ncr
  | .txAbortedErrors => if hasBit tsr m.tsrAbt then 1 else 0
  | .txPackets => if hasBit tsr m.tsrPtx then 1 else 0
  | .txErrors => if hasBit tsr m.tsrPtx then 0 else 1
  | .txCarrierErrors => if hasBit tsr m.tsrPtx then 0 else if hasBit tsr m.tsrCrs then 1 else 0
  | .txFifoErrors => if hasBit tsr m.tsrPtx then 0 else if hasBit tsr m.tsrFu then 1 else 0
  | .txHeartbeatErrors => if hasBit tsr m.tsrPtx then 0 else if hasBit tsr m.tsrCdh then 1 else 0
  | .txWindowErrors => if hasBit tsr m.tsrPtx then 0 else if hasBit tsr m.tsrOwc then 1 else 0
  | .rxPackets | .rxBytes | .rxErrors | .rxDropped | .rxLengthErrors | .rxFifoErrors | .rxFrameErrors | .rxCrcErrors
  | .rxMissedErrors | .rxOverErrors => 0

/-- A run has ended: no command is left, no operation is mid-way, no fault, and no refusal is marked, which is that the step is not
refused (R275, R251, entry 3). -/
structure EndOfRun (s : State) : Prop where
  noCommand : s.cmds = []
  notInside : s.inHandler = false
  notMasked : s.irqMasked = false
  noFault   : s.fault = none
  noRefusal : ∀ r, step s ≠ .refused r

/-- The event is a write of TBCR0. -/
def Event.isCountWrite : Event → Bool
  | .chipW .tbcr0 _ => true
  | _ => false

/-- A command as the Clock sees it: its `now`, and whether the operation triggered a transmission. -/
structure ClockRow where
  now     : Tick
  trigger : Bool
deriving DecidableEq, Repr

/-- The row of the step from `s` to `t`. An operation triggers exactly when it writes TBCR0, which nothing but a trigger does
(41_transmit.md R136). -/
def clockRow (s t : State) : ClockRow where
  now     := t.operands.now
  trigger := (t.trace.drop s.trace.length).any Event.isCountWrite

/-- The rows of a run, given as its states in order. -/
def clockRows (run : List State) : List ClockRow := List.zipWith clockRow run run.tail

/-- The premise `clockMonotone` of R263, on the rows of a run. The u32 ticks are the low 32 bits of times (`time`) that do not
decrease from one command to the next, and from a trigger up to the next one the times pass a multiple of 2^32 at most once.
DEDUCED (entry 30): how "at least" and "wraps" go together. No rule and no statement assumes it. -/
def ClockMonotone (rows : List ClockRow) : Prop :=
  ∃ time : List Nat,
    time.map (BitVec.ofNat 32) = rows.map ClockRow.now
    ∧ time.Pairwise (· ≤ ·)
    ∧ ∀ (i j : Nat) (ri : ClockRow) (ti tj : Nat), i < j → rows[i]? = some ri → ri.trigger = true →
        (∀ (k : Nat) (rk : ClockRow), i < k → k < j → rows[k]? = some rk → rk.trigger = false) →
        time[i]? = some ti → time[j]? = some tj → tj / 2 ^ 32 ≤ ti / 2 ^ 32 + 1

end Sys2Proof.Machine
end

