-- ==== Sys2Proof/Certificates/Slice0/Obligations.lean ====
section
/-! DEFINITION. The statements about the model. In each, `exec i s = .next t` gives the whole next state: a field that the record
does not name is unchanged. `s.env.chipAnswer r` is what the Chip answers to the next read of `r` and the answers left after it,
and `headerAnswer`, `grantAnswer` are the same for the Board and the Upward layer. -/

section

open Sys2Proof Sys2Proof.Machine

/-! ## The command word and the step -/

/-- Words written out bit by bit from the format of 30_encoding.md R86 and the map of R89. -/
def Obligations.OpcodeWordsDecode : Prop :=
  decode 0b00000000000000000000000100000001#32 = .ok (.init true)
  ∧ decode 0b00000000000000000000000000000010#32 = .ok .openInst
  ∧ decode 0b00000000000000000000000000000011#32 = .ok .closeInst
  ∧ decode 0b00000101111010100000000000000100#32 = .ok (.submit 1514#16)
  ∧ decode 0b00000000000000000000001000000101#32 = .ok (.setMulticast 1#2)
  ∧ decode 0b00000000000000000000010000000101#32 = .ok (.setMulticast 2#2)
  ∧ decode 0b00000000000000000000000000010000#32 = .ok .irq
  ∧ decode 0b00000000000000000000000000100101#32 = .ok .overrunRecover

/-- Decoding the word of a well-formed instruction gives the instruction back, whatever its operand (R86, R88, R89), and a word that
decodes is the one word of a well-formed instruction: no operation has two spellings (R87, R90). -/
def Obligations.DecodeEncodeAgree : Prop :=
  (∀ i : Instr, i.wellFormed = true → decode (encode i) = .ok i)
  ∧ ∀ (w : Word) (i : Instr), decode w = .ok i → i.wellFormed = true ∧ encode i = w

/-- 30_encoding.md R90: the illegal words, each refused. Every other word the Host or the IRQ agent issues runs the instruction it
spells; that this takes in a word of the other agent's class is the model's reading (entry 16), and that commands wait in a list is
the model's form (entry 4). -/
def Obligations.IllegalWordsRefused : Prop :=
  (∀ w : Word, (0x07 ≤ (opField w).toNat ∧ (opField w).toNat ≤ 0x0F) ∨ (0x12 ≤ (opField w).toNat ∧ (opField w).toNat ≤ 0x1F)
      ∨ 0x29 ≤ (opField w).toNat → ∀ op : Op, op.code ≠ opField w)
  ∧ ∀ (s : State) (c : Command) (rest : List Command), s.fault = none → admitted s.cfg = true → s.cmds = c :: rest →
    let illegal : Prop :=
      (∀ op : Op, op.code ≠ opField c.word)
      ∨ reservedField c.word ≠ 0#5
      ∨ (stField c.word = true ∧ opField c.word ≠ 0x01#8)
      ∨ (mdField c.word ≠ 0#2 ∧ opField c.word ≠ 0x05#8)
      ∨ (lenField c.word ≠ 0#16 ∧ opField c.word ≠ 0x04#8)
      ∨ mdField c.word = 3#2
      ∨ (c.issuer ≠ .harness ∧ ∃ op : Op, op.code = opField c.word ∧ op.cls = .internal)
    (illegal → ∃ r, step s = .refused r)
    ∧ (¬ illegal → c.issuer ≠ .harness →
        ∃ i : Instr, encode i = c.word ∧ step s = exec i { s with cmds := rest, operands := c.operands })

/-- 30_encoding.md R91: a test harness may issue an internal opcode only under `internalCall`, and then it runs. That outside the
premise it is refused is the model's reading (entry 15). -/
def Obligations.InternalCallPremise : Prop :=
  ∀ (s : State) (c : Command) (rest : List Command) (i : Instr), s.fault = none → admitted s.cfg = true →
    s.cmds = c :: rest → c.issuer = .harness → decode c.word = .ok i → i.op.cls = .internal →
    ((s.isOpen = true ∧ s.inHandler = true ∧ s.irqMasked = false →
        step s = exec i { s with cmds := rest, operands := c.operands })
      ∧ (¬ (s.isOpen = true ∧ s.inHandler = true ∧ s.irqMasked = false) → step s = .refused .internalOpcode))

/-- A step runs the decoded instruction: the next command leaves the list, its side-band operands are at hand, and the step is
`exec` of what the command's word decodes to (00_scope.md R18, 30_encoding.md R86, 60_exceptions.md R274). -/
def Obligations.StepRunsDecodedCommand : Prop :=
  ∀ (s : State) (c : Command) (rest : List Command) (i : Instr), s.fault = none → admitted s.cfg = true →
    s.cmds = c :: rest → decode c.word = .ok i → mayIssue c.issuer i.op s = true →
    step s = exec i { s with cmds := rest, operands := c.operands }

/-- 10_state.md R45: a faulted state has no further step, and no operation clears the fault, INIT included. -/
def Obligations.FaultIsFinal : Prop :=
  (∀ (s : State) (k : Fault), (s.raise k).fault = some k)
  ∧ (∀ (s : State) (k : Fault), s.fault = some k → step s = .fault k)
  ∧ (∀ (i : Instr) (s t : State), s.fault ≠ none → exec i s = .next t → t.fault ≠ none)
  ∧ ∀ (start : Bool) (s t : State), exec (.init start) s = .next t → t.fault = s.fault

/-- A configuration is admitted exactly under the four conditions of 00_scope.md R10 and the ranges of R9 that `Cfg`'s types do
not enforce (entry 9), and any other is refused (60_exceptions.md R251). -/
def Obligations.InadmissibleConfigRefused : Prop :=
  ∀ s : State, s.fault = none →
    ((admitted s.cfg = true ↔
        s.cfg.rxStartPage.toNat < s.cfg.stopPage.toNat
        ∧ 2 ≤ s.cfg.stopPage.toNat - s.cfg.rxStartPage.toNat
        ∧ (∀ p : Nat, s.cfg.txStartPage.toNat ≤ p →
            p < s.cfg.txStartPage.toNat + s.cfg.numTxSlots.toNat * s.cfg.txSlot2Offset.toNat →
            p ≤ 255 ∧ ¬ (s.cfg.rxStartPage.toNat ≤ p ∧ p < s.cfg.stopPage.toNat))
        ∧ s.cfg.ethFrameLen ≤ s.cfg.txSlot2Offset.toNat * s.cfg.pageSize
        ∧ 1 ≤ s.cfg.maxRxIter ∧ 1 ≤ s.cfg.maxService ∧ 1600 ≤ s.cfg.overrunWaitMin ∧ 1 ≤ s.cfg.pageSize)
      ∧ (admitted s.cfg = false → step s = .refused .inadmissibleConfig))

/-! ## Attach -/

/-- 10_state.md R24: the value of each field when the instance is created, for every configuration, and the fault a read of an
unset field raises. -/
def Obligations.AttachValues : Prop :=
  (∀ cfg : Cfg,
    let s := State.attach cfg
    s.currentPage = none ∧ s.slot1 = .free ∧ s.slot2 = .free ∧ s.txing = false ∧ s.txqueue = 0 ∧ s.lasttx = .none
    ∧ s.transStart = 0#32 ∧ s.mediaSelect = 0#1 ∧ s.inHandler = false ∧ s.irqMasked = false ∧ s.isOpen = false
    ∧ s.rxEnabled = false ∧ s.mcMode = .list ∧ s.mcList = [] ∧ (∀ m : Fin 8, s.mcfilter.get m = 0x00#8)
    ∧ (∀ c : Counter, s.stats.get c = 0) ∧ (∀ r : ChipReg, s.shadow.get r = none) ∧ s.trace = [] ∧ s.fault = none)
  ∧ ∀ s : State, 1 ≤ s.cfg.maxRxIter → s.currentPage = none → inRing s.cfg (s.env.chipAnswer .curr).1 = true →
      ∃ t, exec .drain s = .next t ∧ t.fault = some .unsetState

/-- The invariants hold right after attach, for every configuration, and so at reset. -/
def Obligations.InvariantsHoldAtAttach : Prop :=
  (∀ cfg : Cfg, SlotInv (State.attach cfg) ∧ RingInv (State.attach cfg) ∧ CountersFit (State.attach cfg)
    ∧ Memory.wf (State.attach cfg).mem ∧ ∀ r : ChipReg, (State.attach cfg).shadow.get r = lastWrite r none (State.attach cfg).trace)
  ∧ ∃ cfg, State.reset = State.attach cfg ∧ admitted cfg = true

/-! ## Invariants that every step keeps -/

/-- 10_state.md R38: every step keeps the five slot invariants. -/
def Obligations.StepKeepsSlotInvariants : Prop := ∀ s t : State, SlotInv s → step s = .next t → SlotInv t

/-- 10_state.md R25, 42_receive.md R176: every step keeps BNRY one page behind `currentPage`, both in the ring, and
`currentPage` set on an open instance. -/
def Obligations.StepKeepsRingInvariant : Prop := ∀ s t : State, RingInv s → step s = .next t → RingInv t

/-- Every step keeps every counter within its width (10_state.md R37), and chip buffer memory in its canonical form, whose
addresses are 16 bits (20_memory.md R48, entry 11). -/
def Obligations.StepKeepsCountersAndMemory : Prop :=
  ∀ s t : State, step s = .next t →
    (CountersFit s → CountersFit t) ∧ (Memory.wf s.mem → Memory.wf t.mem)

/-- 10_state.md R24, R44: the shadow of every register is the last value the trace writes to it, and every step keeps it so. -/
def Obligations.StepKeepsShadowTheLastWrite : Prop :=
  ∀ s t : State, (∀ r : ChipReg, s.shadow.get r = lastWrite r none s.trace) → step s = .next t →
    ∀ r : ChipReg, t.shadow.get r = lastWrite r none t.trace

/-! ## Rules about every operation -/

/-- 70_reset_and_hazards.md R284: every operation ends within its bound of events, the two events of each nested `IRQ` step that
lands in it not counted: `env.nested` lists those steps. No past event is removed or changed (10_state.md R44). -/
def Obligations.EventsBounded : Prop :=
  ∀ (i : Instr) (s t : State), exec i s = .next t →
    s.trace <+: t.trace
    ∧ t.trace.length + 2 * t.env.nested.sum ≤ s.trace.length + 2 * s.env.nested.sum + eventBound s.cfg i

/-- 70_reset_and_hazards.md R286, 45_multicast.md R229: every operation writes a multicast register only while RCR holds
`RCR_OFF`. -/
def Obligations.MulticastWrittenWithReceiveOff : Prop :=
  ∀ (i : Instr) (s t : State) (es : List Event), exec i s = .next t → t.trace = s.trace ++ es →
    marGuarded s.cfg.chipMap.rcrOff (s.shadow.get .rcr) es = true

/-- 60_exceptions.md R243: only INIT, OPEN, CLOSE, SUBMIT and the timeout reset write IMR, with no value but the two masks. -/
def Obligations.InterruptMaskWriters : Prop :=
  ∀ (i : Instr) (s t : State) (es : List Event) (v : Byte), exec i s = .next t → t.trace = s.trace ++ es →
    Event.chipW .imr v ∈ es →
    i.op ∈ [Op.INIT, Op.OPEN, Op.CLOSE, Op.SUBMIT, Op.TX_TIMEOUT_RESET]
      ∧ (v = s.cfg.chipMap.imrNone ∨ v = s.cfg.chipMap.imrAll)

/-- Who may change each field: the lifecycle flags (10_state.md R35), the interrupt mask mirror (R34), the media choice
(70_reset_and_hazards.md R296), the multicast state (45_multicast.md R230, R235), chip memory (20_memory.md R49, R75), the
buffers handed up and the fault. -/
def Obligations.FieldWriters : Prop :=
  ∀ (i : Instr) (s t : State), exec i s = .next t →
    (i.op ∉ [Op.OPEN, Op.CLOSE] → t.isOpen = s.isOpen)
    ∧ (i.op ∉ [Op.INIT, Op.OPEN, Op.CLOSE, Op.SUBMIT, Op.TX_TIMEOUT_RESET] → t.rxEnabled = s.rxEnabled)
    ∧ (i.op ∉ [Op.INIT, Op.OPEN, Op.SUBMIT, Op.TX_TIMEOUT_RESET] → t.irqMasked = s.irqMasked)
    ∧ (i.op ∉ [Op.SUBMIT, Op.TX_TIMEOUT_RESET] → t.mediaSelect = s.mediaSelect)
    ∧ (i.op ≠ Op.SET_MULTICAST → t.mcMode = s.mcMode ∧ t.mcList = s.mcList)
    ∧ (i.op ∉ [Op.INIT, Op.OPEN, Op.SUBMIT, Op.SET_MULTICAST, Op.MC_REBUILD, Op.TX_TIMEOUT_RESET] →
        t.mcfilter = s.mcfilter)
    ∧ (i.op ≠ Op.SUBMIT → t.mem = s.mem)
    ∧ (i.op ∉ [Op.DRAIN, Op.OVERRUN_RECOVER, Op.IRQ] → t.delivered = s.delivered ∧ t.fault = s.fault)
    ∧ t.cfg = s.cfg ∧ t.operands = s.operands ∧ t.cmds = s.cmds

/-- 10_state.md R32, last sentence: `lasttx` affects only `Log` events. Changing it before an operation changes nothing after it
but `lasttx` and the logs of the trace. -/
def Obligations.LastTxReachesOnlyLogs : Prop :=
  ∀ (i : Instr) (s : State) (l : LastTx),
    (∀ t, exec i s = .next t → ∃ u, exec i { s with lasttx := l } = .next u
      ∧ u = { t with lasttx := u.lasttx, trace := u.trace } ∧ noLogs u.trace = noLogs t.trace)
    ∧ ∀ r, exec i s = .refused r → exec i { s with lasttx := l } = .refused r

/-! ## Bring-up -/

/-- 40_bringup.md R119, R122, with the table rebuild of 45_multicast.md R233 and the result of 30_encoding.md R108: what INIT writes, in
order, what it sets and what it leaves alone. -/
def Obligations.InitResult : Prop :=
  ∀ (start : Bool) (s : State),
    let m := s.cfg.chipMap
    let a := s.cfg.stationAddr
    let t := mcTable s.mcMode s.mcList
    let writes : List (ChipReg × Byte) :=
      [ (.cr, m.crStop), (.dcr, s.cfg.dcrValue), (.rbcr0, 0x00#8), (.rbcr1, 0x00#8), (.rcr, m.rcrOff), (.tcr, m.tcrLoopback),
        (.tpsr, s.cfg.txStartPage), (.pstart, s.cfg.rxStartPage), (.bnry, s.cfg.stopPage - 1), (.pstop, s.cfg.stopPage),
        (.isr, m.isrAll), (.imr, m.imrNone),
        (.par 0, a[0]), (.par 1, a[1]), (.par 2, a[2]), (.par 3, a[3]), (.par 4, a[4]), (.par 5, a[5]),
        (.curr, s.cfg.rxStartPage), (.rcr, m.rcrOff),
        (.mar 0, t[0]), (.mar 1, t[1]), (.mar 2, t[2]), (.mar 3, t[3]), (.mar 4, t[4]), (.mar 5, t[5]), (.mar 6, t[6]),
        (.mar 7, t[7]), (.rcr, m.rcrOff) ]
      ++ (if start then
            [ (.isr, m.isrAll), (.imr, m.imrAll), (.cr, m.crStart), (.tcr, m.tcrNormal),
              (.rcr, rcrMode m s.mcMode s.mcList) ]
          else [])
    exec (.init start) s = .next
      { s with currentPage := some s.cfg.rxStartPage
               slot1 := .free
               slot2 := if s.cfg.numTxSlots = .two then .free else s.slot2
               txing := false
               txqueue := 0
               inHandler := false
               irqMasked := false
               rxEnabled := start
               mcfilter := t
               shadow := s.shadow.putAll writes
               trace := s.trace ++ writeEvents writes ++ [.result .INIT .unit]
               returned := .unit }

/-- 40_bringup.md R123: INIT twice leaves what INIT once leaves, the trace apart, and the second run's events repeat the first's. -/
def Obligations.InitIdempotent : Prop :=
  ∀ (start : Bool) (s : State), ∃ (t u : State) (es : List Event),
    exec (.init start) s = .next t ∧ exec (.init start) t = .next u
    ∧ u = { t with trace := u.trace } ∧ t.trace = s.trace ++ es ∧ u.trace = t.trace ++ es

/-- 40_bringup.md R124: OPEN is INIT(true) with its result suppressed, then `isOpen`, then OPEN's own result. -/
def Obligations.OpenResult : Prop :=
  ∀ s : State, ∃ t, exec (.init true) s = .next t
    ∧ exec .openInst s = .next { t with isOpen := true, trace := t.trace.dropLast ++ [.result .OPEN .unit] }

/-- 70_reset_and_hazards.md R279: every shadow register after OPEN with an empty list in mode `list`, and what differs after
INIT(false). -/
def Obligations.OpenShadow : Prop :=
  ∀ s : State, s.mcMode = .list → s.mcList = [] →
    let m := s.cfg.chipMap
    (∃ t, exec .openInst s = .next t
      ∧ t.shadow.get .cr = some m.crStart ∧ t.shadow.get .dcr = some s.cfg.dcrValue
      ∧ t.shadow.get .rbcr0 = some 0x00#8 ∧ t.shadow.get .rbcr1 = some 0x00#8
      ∧ t.shadow.get .rcr = some m.rcrBase ∧ t.shadow.get .tcr = some m.tcrNormal
      ∧ t.shadow.get .tpsr = some s.cfg.txStartPage ∧ t.shadow.get .pstart = some s.cfg.rxStartPage
      ∧ t.shadow.get .pstop = some s.cfg.stopPage ∧ t.shadow.get .bnry = some (s.cfg.stopPage - 1)
      ∧ t.shadow.get .curr = some s.cfg.rxStartPage
      ∧ t.shadow.get .isr = some m.isrAll ∧ t.shadow.get .imr = some m.imrAll
      ∧ (∀ i : Fin 6, t.shadow.get (.par i) = some (s.cfg.stationAddr.get i))
      ∧ (∀ k : Fin 8, t.shadow.get (.mar k) = some 0x00#8)
      ∧ t.shadow.get .tbcr0 = s.shadow.get .tbcr0 ∧ t.shadow.get .tbcr1 = s.shadow.get .tbcr1)
    ∧ ∃ t, exec (.init false) s = .next t
      ∧ t.shadow.get .cr = some m.crStop ∧ t.shadow.get .rcr = some m.rcrOff
      ∧ t.shadow.get .tcr = some m.tcrLoopback ∧ t.shadow.get .imr = some m.imrNone

/-- 40_bringup.md R126: CLOSE. -/
def Obligations.CloseResult : Prop :=
  ∀ s : State, exec .closeInst s = .next
    { s with isOpen := false
             rxEnabled := false
             shadow := (s.shadow.put .imr s.cfg.chipMap.imrNone).put .cr s.cfg.chipMap.crStop
             trace := s.trace ++ [.chipW .imr s.cfg.chipMap.imrNone, .chipW .cr s.cfg.chipMap.crStop, .result .CLOSE .unit]
             returned := .unit }

/-- 40_bringup.md R127: GET_STATS. -/
def Obligations.GetStatsResult : Prop :=
  ∀ s : State, exec .getStats s = .next
    { s with trace := s.trace ++ [.result .GET_STATS (.stats s.stats)], returned := .stats s.stats }

/-! ## Multicast -/

/-- 45_multicast.md R222, R223, R226: bit `k & 7` of byte `k >> 3` is set exactly when some listed address has index `k`; in the
other two modes every bit is set. Byte `m` goes to MAR`m` when the table is installed. -/
def Obligations.TableBits : Prop :=
  (∀ (list : List MacAddr) (m : Fin 8) (b : Fin 8),
    ((mcTable .list list).get m).getLsbD b.val = true ↔ ∃ a ∈ list, mcIndex a = 8 * m.val + b.val)
  ∧ (∀ (list : List MacAddr) (m : Fin 8), (mcTable .allMulti list).get m = 0xFF#8 ∧ (mcTable .promisc list).get m = 0xFF#8)
  ∧ ∀ (s : State) (m : Fin 8), ∃ t, exec .mcRebuild s = .next t
      ∧ t.shadow.get (.mar m) = some ((mcTable s.mcMode s.mcList).get m)

/-- 45_multicast.md R224: the table depends on the set of addresses alone, not on their order or on repeats. -/
def Obligations.TableDependsOnTheSet : Prop :=
  ∀ (mode : McMode) (a b : List MacAddr), (∀ x, x ∈ a ↔ x ∈ b) → mcTable mode a = mcTable mode b

/-- 45_multicast.md R233: MC_REBUILD. -/
def Obligations.McRebuildResult : Prop :=
  ∀ s : State,
    let m := s.cfg.chipMap
    let t := mcTable s.mcMode s.mcList
    let writes : List (ChipReg × Byte) :=
      [ (.rcr, m.rcrOff), (.mar 0, t[0]), (.mar 1, t[1]), (.mar 2, t[2]), (.mar 3, t[3]), (.mar 4, t[4]), (.mar 5, t[5]),
        (.mar 6, t[6]), (.mar 7, t[7]), (.rcr, if s.rxEnabled then rcrMode m s.mcMode s.mcList else m.rcrOff) ]
    exec .mcRebuild s = .next
      { s with mcfilter := t
               shadow := s.shadow.putAll writes
               trace := s.trace ++ writeEvents writes
               returned := .table t }

/-- 45_multicast.md R235: SET_MULTICAST is the new mode and list, then MC_REBUILD, then its result; `md = 11` is refused. -/
def Obligations.SetMulticastResult : Prop :=
  ∀ s : State,
    (∀ (md : BitVec 2) (mode : McMode),
      (md = 0#2 ∧ mode = .list) ∨ (md = 1#2 ∧ mode = .allMulti) ∨ (md = 2#2 ∧ mode = .promisc) →
      ∃ t, exec .mcRebuild { s with mcMode := mode, mcList := s.operands.list } = .next t
        ∧ exec (.setMulticast md) s = .next { t with trace := t.trace ++ [.result .SET_MULTICAST .unit], returned := .unit })
    ∧ exec (.setMulticast 3#2) s = .refused .illegalCommandWord

/-! ## Transmit -/

/-- 41_transmit.md R135: TRIGGER_SEND, its slot and length taken from the side-band operands. -/
def Obligations.TriggerSendResult : Prop :=
  ∀ s : State,
    let writes : List (ChipReg × Byte) :=
      [ (.tbcr0, s.operands.length.extractLsb' 0 8), (.tbcr1, s.operands.length.extractLsb' 8 8),
        (.tpsr, slotPage s.cfg s.operands.slot), (.cr, s.cfg.chipMap.crTrans) ]
    exec .triggerSend s = .next
      { s with transStart := s.operands.now
               shadow := s.shadow.putAll writes
               trace := s.trace ++ writeEvents writes
               returned := .unit }

/-- 41_transmit.md R132: a longer frame is refused in every state; every other length, 0 included, is admitted, and an idle open
instance transmits it padded. -/
def Obligations.SubmitLengthAdmission : Prop :=
  (∀ (len : Half) (s : State), s.cfg.ethFrameLen < len.toNat → exec (.submit len) s = .refused .oversizeFrame)
  ∧ (∀ (len : Half) (s : State), len.toNat ≤ s.cfg.ethFrameLen → ∃ t, exec (.submit len) s = .next t)
  ∧ ∀ s : State, s.isOpen = true → s.busy = false → s.txing = false → s.cfg.ethZlen = 60 →
      ∃ t, exec (.submit 0#16) s = .next t ∧ t.shadow.get .tbcr0 = some 60#8 ∧ t.shadow.get .tbcr1 = some 0#8

/-- 41_transmit.md R134, R139: SUBMIT on a closed instance, and on a busy one before the timeout: no frame is taken. -/
def Obligations.SubmitTurnedAway : Prop :=
  ∀ (len : Half) (s : State), len.toNat ≤ s.cfg.ethFrameLen →
    (s.isOpen = false → exec (.submit len) s = .next
      { s with trace := s.trace ++ [.log .submitClosed, .result .SUBMIT (.submit .busy)], returned := .submit .busy })
    ∧ (s.isOpen = true → s.busy = true → (s.operands.now - s.transStart).toNat < s.cfg.txTimeout →
        exec (.submit len) s = .next
          { s with trace := s.trace ++ [.result .SUBMIT (.submit .busy)], returned := .submit .busy })

/-- 41_transmit.md R130, R131, R139, R142: SUBMIT on an open idle instance with a free slot `i`. The frame is copied to the start
of the slot's page, byte for byte, then triggered with its padded length; `n` guarded `IRQ` steps land at P_SUBMIT. The model's
choices: a byte past the listed host buffer is a free value (entry 13), a copy address is 16-bit (entry 21), and a padded length
is taken modulo 65536 (entry 29, for `ethZlen` above 65535). -/
def Obligations.SubmitSends : Prop :=
  ∀ (len : Half) (s : State) (i : Slot), len.toNat ≤ s.cfg.ethFrameLen → s.isOpen = true → s.txing = false →
    (i = .one ∧ s.slot1 = .free) ∨ (i = .two ∧ s.slot1 ≠ .free ∧ s.cfg.numTxSlots = .two ∧ s.slot2 = .free) →
    let m := s.cfg.chipMap
    let n := s.env.nested.headD 0
    let guarded := if s.inHandler then LogKind.irqReentrant else LogKind.irqWhileMasked
    let sent : Half := BitVec.ofNat 16 (max len.toNat s.cfg.ethZlen)
    let trigger : List (ChipReg × Byte) :=
      [(.tbcr0, sent.extractLsb' 0 8), (.tbcr1, sent.extractLsb' 8 8), (.tpsr, slotPage s.cfg i), (.cr, m.crTrans)]
    ∃ mem : Memory,
      exec (.submit len) s = .next
        { s with slot1 := if i = .one then .sending else s.slot1
                 slot2 := if i = .two then .sending else s.slot2
                 txing := true
                 lasttx := .startedBySubmit i
                 transStart := s.operands.now
                 irqMasked := false
                 mem := mem
                 env := { s.env with nested := s.env.nested.tail, draws := s.env.draws + 1 }
                 shadow := s.shadow.putAll ([(.imr, m.imrNone)] ++ trigger ++ [(.imr, m.imrAll)])
                 trace := s.trace ++ [.chipW .imr m.imrNone]
                   ++ (List.replicate n [Event.log guarded, .result .IRQ .unit]).flatten
                   ++ [.blockOut len.toNat (slotPage s.cfg i)] ++ writeEvents trigger
                   ++ [.chipW .imr m.imrAll, .result .SUBMIT (.submit .queued)]
                 returned := .submit .queued }
      ∧ (∀ k, k < len.toNat → mem.read (copyAddr (slotPage s.cfg i) k) = some (hostByte s.operands.data s.env.draws k))
      ∧ (∀ a, (∀ k, k < len.toNat → a ≠ copyAddr (slotPage s.cfg i) k) → mem.read a = s.mem.read a)

/-- 41_transmit.md R139, R140: SUBMIT behind a transmit in flight: the frame is copied, its slot stays `loaded`, nothing is
triggered. The model's choices: free bytes past the listed host buffer (entry 13), 16-bit copy addresses (entry 21), the padded
length modulo 65536 (entry 29). -/
def Obligations.SubmitQueues : Prop :=
  ∀ (len : Half) (s : State) (i : Slot), len.toNat ≤ s.cfg.ethFrameLen → s.isOpen = true → s.txing = true →
    (i = .one ∧ s.slot1 = .free) ∨ (i = .two ∧ s.slot1 ≠ .free ∧ s.cfg.numTxSlots = .two ∧ s.slot2 = .free) →
    let m := s.cfg.chipMap
    let n := s.env.nested.headD 0
    let guarded := if s.inHandler then LogKind.irqReentrant else LogKind.irqWhileMasked
    let sent : Half := BitVec.ofNat 16 (max len.toNat s.cfg.ethZlen)
    ∃ mem : Memory,
      exec (.submit len) s = .next
        { s with slot1 := if i = .one then .loaded sent else s.slot1
                 slot2 := if i = .two then .loaded sent else s.slot2
                 txqueue := s.txqueue + 1
                 irqMasked := false
                 mem := mem
                 env := { s.env with nested := s.env.nested.tail, draws := s.env.draws + 1 }
                 shadow := (s.shadow.put .imr m.imrNone).put .imr m.imrAll
                 trace := s.trace ++ [.chipW .imr m.imrNone]
                   ++ (List.replicate n [Event.log guarded, .result .IRQ .unit]).flatten
                   ++ [.blockOut len.toNat (slotPage s.cfg i), .chipW .imr m.imrAll, .result .SUBMIT (.submit .queued)]
                 returned := .submit .queued }
      ∧ (∀ k, k < len.toNat → mem.read (copyAddr (slotPage s.cfg i) k) = some (hostByte s.operands.data s.env.draws k))
      ∧ (∀ a, (∀ k, k < len.toNat → a ≠ copyAddr (slotPage s.cfg i) k) → mem.read a = s.mem.read a)

/-- 41_transmit.md R134, R138, R139: SUBMIT on a busy instance from the timeout on: the timeout reset, then the same SUBMIT, which
now sends, with RETRANSMITTING for its result. -/
def Obligations.SubmitAfterTimeout : Prop :=
  ∀ (len : Half) (s : State), len.toNat ≤ s.cfg.ethFrameLen → s.isOpen = true → s.busy = true →
    s.cfg.txTimeout ≤ (s.operands.now - s.transStart).toNat →
    ∃ r t, exec .txTimeoutReset s = .next r ∧ exec (.submit len) r = .next t
      ∧ t.slot1 = .sending ∧ t.txing = true ∧ t.returned = .submit .queued
      ∧ exec (.submit len) s = .next
          { t with trace := t.trace.dropLast ++ [.result .SUBMIT (.submit .retransmitting)], returned := .submit .retransmitting }

/-- 41_transmit.md R137: TX_TIMEOUT_RESET is the ISR read, the log, the media choice, the board reset, INIT(true) without its
result, and the new `transStart`. -/
def Obligations.TxTimeoutResetResult : Prop :=
  ∀ s : State,
    let isr := (s.env.chipAnswer .isr).1
    let media := if isr = 0x00#8 ∧ s.stats.txPackets = 0 then 1#1 - s.mediaSelect else s.mediaSelect
    ∃ t, exec (.init true)
        { s with mediaSelect := media
                 env := (s.env.chipAnswer .isr).2
                 trace := s.trace ++ [.chipR .isr isr, .log (.txTimeout isr), .resetChip media] } = .next t
      ∧ exec .txTimeoutReset s = .next { t with transStart := s.operands.now, trace := t.trace.dropLast, returned := .unit }

/-- 41_transmit.md R143 to R145, R147, R151, R152: TX_DONE with slot `i` in `sending` and the other slot not loaded: the slot is
freed, the engine goes idle, and the counters take what TX_STATS adds. -/
def Obligations.TxDoneGoesIdle : Prop :=
  ∀ (s : State) (i : Slot), CountersFit s →
    (i = .one ∧ s.slot1 = .sending) ∨ (i = .two ∧ s.slot1 ≠ .sending ∧ s.cfg.numTxSlots = .two ∧ s.slot2 = .sending) →
    (∀ len, ¬ (i.other.exists s.cfg = true ∧ s.slot i.other = .loaded len)) →
    let tsr := (s.env.chipAnswer .tsr).1
    let ncr := ((s.env.chipAnswer .tsr).2.chipAnswer .ncr).1
    let f := s.cfg.chipMap.ncrCount
    let collided := (ncr.toNat >>> f.lo) % 2 ^ (f.hi + 1 - f.lo)
    ∃ stats : Stats,
      exec .txDone s = .next
        { s with slot1 := if i = .one then .free else s.slot1
                 slot2 := if i = .two then .free else s.slot2
                 txing := false
                 lasttx := .idleAfter i
                 stats := stats
                 env := ((s.env.chipAnswer .tsr).2.chipAnswer .ncr).2
                 trace := s.trace ++ [.chipR .tsr tsr, .chipR .ncr ncr]
                   ++ (if s.lasttx = .startedBySubmit i ∨ s.lasttx = .startedByCompletion i then []
                       else [.log (.bogusLastTx s.lasttx i)])
                 returned := .unit }
      ∧ ∀ c : Counter, stats.get c =
          (s.stats.get c + txCounts s.cfg.chipMap tsr collided c) % 2 ^ s.cfg.cntWidth

/-- 41_transmit.md R142 to R145, R147, R151, R152: TX_DONE with slot `i` in `sending` and the other loaded: the other is triggered
at once with its own length and marked `sending`. In a state with nothing counted in `txqueue` the decrement stays at 0, the
model's choice (entry 20); under `SlotInv` there is none. -/
def Obligations.TxDonePromotes : Prop :=
  ∀ (s : State) (i : Slot) (len : Half), CountersFit s →
    (i = .one ∧ s.slot1 = .sending) ∨ (i = .two ∧ s.slot1 ≠ .sending ∧ s.slot2 = .sending) → s.cfg.numTxSlots = .two →
    s.slot i.other = .loaded len →
    let tsr := (s.env.chipAnswer .tsr).1
    let ncr := ((s.env.chipAnswer .tsr).2.chipAnswer .ncr).1
    let f := s.cfg.chipMap.ncrCount
    let collided := (ncr.toNat >>> f.lo) % 2 ^ (f.hi + 1 - f.lo)
    let trigger : List (ChipReg × Byte) :=
      [ (.tbcr0, len.extractLsb' 0 8), (.tbcr1, len.extractLsb' 8 8), (.tpsr, slotPage s.cfg i.other),
        (.cr, s.cfg.chipMap.crTrans) ]
    ∃ stats : Stats,
      exec .txDone s = .next
        { s with slot1 := if i = .one then .free else .sending
                 slot2 := if i = .two then .free else .sending
                 txqueue := s.txqueue - 1
                 lasttx := .startedByCompletion i.other
                 transStart := s.operands.now
                 stats := stats
                 env := ((s.env.chipAnswer .tsr).2.chipAnswer .ncr).2
                 shadow := s.shadow.putAll trigger
                 trace := s.trace ++ [.chipR .tsr tsr, .chipR .ncr ncr]
                   ++ (if s.lasttx = .startedBySubmit i ∨ s.lasttx = .startedByCompletion i then []
                       else [.log (.bogusLastTx s.lasttx i)])
                   ++ writeEvents trigger
                 returned := .unit }
      ∧ ∀ c : Counter, stats.get c =
          (s.stats.get c + txCounts s.cfg.chipMap tsr collided c) % 2 ^ s.cfg.cntWidth

/-- 41_transmit.md R146: TX_DONE with no slot in `sending`. -/
def Obligations.TxDoneUnexpected : Prop :=
  ∀ s : State, CountersFit s → s.slot1 ≠ .sending → (s.cfg.numTxSlots = .two → s.slot2 ≠ .sending) →
    let tsr := (s.env.chipAnswer .tsr).1
    let ncr := ((s.env.chipAnswer .tsr).2.chipAnswer .ncr).1
    let f := s.cfg.chipMap.ncrCount
    let collided := (ncr.toNat >>> f.lo) % 2 ^ (f.hi + 1 - f.lo)
    ∃ stats : Stats,
      exec .txDone s = .next
        { s with stats := stats
                 env := ((s.env.chipAnswer .tsr).2.chipAnswer .ncr).2
                 trace := s.trace ++ [.chipR .tsr tsr, .chipR .ncr ncr, .log (.unexpectedTxDone s.lasttx)]
                 returned := .unit }
      ∧ ∀ c : Counter, stats.get c =
          (s.stats.get c + txCounts s.cfg.chipMap tsr collided c) % 2 ^ s.cfg.cntWidth

/-- 41_transmit.md R155: a frame submitted on an idle open instance and completed with PTX set counts one packet more, leaves the
slots as they were before it, and counts no error. -/
def Obligations.SubmitTxDoneRoundTrip : Prop :=
  ∀ (len : Half) (s : State), len.toNat ≤ s.cfg.ethFrameLen → s.isOpen = true → s.busy = false → s.txing = false →
    SlotInv s → CountersFit s →
    ∃ t, exec (.submit len) s = .next t
      ∧ (hasBit (t.env.chipAnswer .tsr).1 t.cfg.chipMap.tsrPtx = true →
          ∃ u, exec .txDone t = .next u
            ∧ u.stats.get .txPackets = (s.stats.get .txPackets + 1) % 2 ^ s.cfg.cntWidth
            ∧ u.slot1 = s.slot1 ∧ u.slot2 = s.slot2 ∧ u.txing = false ∧ u.txqueue = s.txqueue
            ∧ u.stats.get .txErrors = s.stats.get .txErrors)

/-- 41_transmit.md R153: TX_COLLISION rewrites the start page of the slot in `sending` and retriggers; with none, or closed, it only
logs. -/
def Obligations.TxCollisionResult : Prop :=
  ∀ s : State,
    (∀ i : Slot, s.isOpen = true → s.txing = true →
      (i = .one ∧ s.slot1 = .sending) ∨ (i = .two ∧ s.slot1 ≠ .sending ∧ s.cfg.numTxSlots = .two ∧ s.slot2 = .sending) →
      exec .txCollision s = .next
        { s with shadow := (s.shadow.put .tpsr (slotPage s.cfg i)).put .cr s.cfg.chipMap.crTrans
                 trace := s.trace ++ [.chipW .tpsr (slotPage s.cfg i), .chipW .cr s.cfg.chipMap.crTrans,
                                      .result .TX_COLLISION .unit]
                 returned := .unit })
    ∧ (s.isOpen = false ∨ s.txing = false ∨ (s.slot1 ≠ .sending ∧ (s.cfg.numTxSlots = .two → s.slot2 ≠ .sending)) →
        exec .txCollision s = .next
          { s with trace := s.trace ++ [.log .collisionWhileIdle, .result .TX_COLLISION .unit], returned := .unit })

/-- 41_transmit.md R157: no more slots are occupied than exist, and `busy` holds exactly when all are. -/
def Obligations.SlotBound : Prop :=
  ∀ s : State, occupiedCount s ≤ s.cfg.numTxSlots.toNat ∧ (s.busy = true ↔ occupiedCount s = s.cfg.numTxSlots.toNat)

/-! ## Receive -/

/-- 42_receive.md R162: the default computed next page is the page plus the rounded-up quotient, not reduced into the ring. -/
def Obligations.NextFrameRoundsUp : Prop :=
  ∀ (cfg : Cfg) (this : Byte) (count : Half), cfg.nextFrameFn = .doc →
    nextFrame cfg this count =
      (this.toNat : Int) + ⌈((count.toNat : ℚ) - (cfg.hdrLen : ℚ)) / (cfg.pageSize : ℚ)⌉

/-- What DRAIN may change and what it reads: of the Chip only CURR, and it writes only BNRY (42_receive.md R167, R168, R180); it
delivers no more frames than its bound (R159) and one buffer for each. It completes in every state. -/
def Obligations.DrainFrame : Prop :=
  ∀ s : State, ∃ (t : State) (es : List Event) (n : Nat), exec .drain s = .next t
    ∧ t = { s with currentPage := t.currentPage, stats := t.stats, shadow := t.shadow, trace := s.trace ++ es
                   fault := t.fault, delivered := t.delivered, env := t.env, returned := .delivered n }
    ∧ n ≤ s.cfg.maxRxIter ∧ t.delivered.length = s.delivered.length + n
    ∧ (∀ r : ChipReg, r ≠ .bnry → t.shadow.get r = s.shadow.get r)
    ∧ (∀ r v, Event.chipR r v ∈ es → r = .curr) ∧ (∀ r v, Event.chipW r v ∈ es → r = .bnry)
    ∧ (∀ b, Event.resetChip b ∉ es)
    ∧ (∀ c : Counter, c ∉ [Counter.rxPackets, .rxBytes, .rxErrors, .rxDropped, .rxLengthErrors, .rxFifoErrors, .rxFrameErrors,
        .rxCrcErrors] → t.stats.get c = s.stats.get c)

/-- 42_receive.md R161: DRAIN on an empty ring reads CURR once and delivers nothing. -/
def Obligations.DrainEmptyRing : Prop :=
  ∀ (s : State) (this : Byte), 1 ≤ s.cfg.maxRxIter → s.currentPage = some this → inRing s.cfg this = true →
    (s.env.chipAnswer .curr).1 = this →
    exec .drain s = .next
      { s with env := (s.env.chipAnswer .curr).2
               trace := s.trace ++ [.chipR .curr this]
               returned := .delivered 0 }

/-- 20_memory.md R65, 60_exceptions.md R250: the two faults of DRAIN's first iteration, CURR's tested first. The fault is set, what
was done before it stands, and the next step answers it. -/
def Obligations.DrainFaults : Prop :=
  ∀ s : State, 1 ≤ s.cfg.maxRxIter →
    let curr := (s.env.chipAnswer .curr).1
    let after (k : Fault) : State :=
      { s with env := (s.env.chipAnswer .curr).2, trace := s.trace ++ [.chipR .curr curr], fault := some k
               returned := .delivered 0 }
    (inRing s.cfg curr = false → exec .drain s = .next (after .currOutOfRing))
    ∧ (inRing s.cfg curr = true → s.currentPage = none → exec .drain s = .next (after .unsetState))
    ∧ ∀ k, step (after k) = .fault k

/-- 42_receive.md R172, R174: one frame, then an empty ring. A consistent, in-range header with a good status: with a buffer
granted the payload is copied and counted and handed up; with none the frame is dropped and counted. Either way the ring
advances. -/
def Obligations.DrainOneGoodFrame : Prop :=
  ∀ (s : State) (this : Byte), 2 ≤ s.cfg.maxRxIter → s.currentPage = some this →
    let curr := (s.env.chipAnswer .curr).1
    let hdr := ((s.env.chipAnswer .curr).2.headerAnswer this).1
    let len : Int := (hdr.count.toNat : Int) - (s.cfg.hdrLen : Int)
    let granted := (((s.env.chipAnswer .curr).2.headerAnswer this).2.grantAnswer len.toNat).1
    let left := (((s.env.chipAnswer .curr).2.headerAnswer this).2.grantAnswer len.toNat).2
    let copied : Env := { left with draws := left.draws + 1 }
    inRing s.cfg curr = true → curr ≠ this →
    (∃ d ∈ s.cfg.wrapTol, (hdr.next.toNat : Int) = nextFrame s.cfg this hdr.count + d) → inRing s.cfg hdr.next = true →
    (s.cfg.ethZlen : Int) ≤ len → len ≤ (s.cfg.ethFrameLen : Int) + (s.cfg.hdrLen : Int) →
    rxOk s.cfg.chipMap hdr.status = true →
    (granted = true → (copied.chipAnswer .curr).1 = hdr.next →
      ∃ (buf : List Byte) (stats : Stats), buf.length = len.toNat
        ∧ exec .drain s = .next
          { s with currentPage := some hdr.next
                   delivered := s.delivered ++ [buf]
                   stats := stats
                   env := (copied.chipAnswer .curr).2
                   shadow := s.shadow.put .bnry (ringPred s.cfg hdr.next)
                   trace := s.trace ++ [.chipR .curr curr, .getHeader this hdr, .getBuffer len.toNat true,
                     .blockIn len.toNat (BitVec.ofNat 16 (this.toNat * 256 + s.cfg.hdrLen)),
                     .chipW .bnry (ringPred s.cfg hdr.next), .chipR .curr hdr.next]
                   returned := .delivered 1 }
        ∧ ∀ c : Counter, stats.get c =
            if c = .rxPackets then (s.stats.get c + 1) % 2 ^ s.cfg.cntWidth
            else if c = .rxBytes then (s.stats.get c + len.toNat) % 2 ^ s.cfg.cntWidth
            else s.stats.get c)
    ∧ (granted = false → (left.chipAnswer .curr).1 = hdr.next →
      ∃ stats : Stats,
        exec .drain s = .next
          { s with currentPage := some hdr.next
                   stats := stats
                   env := (left.chipAnswer .curr).2
                   shadow := s.shadow.put .bnry (ringPred s.cfg hdr.next)
                   trace := s.trace ++ [.chipR .curr curr, .getHeader this hdr, .getBuffer len.toNat false,
                     .log (.rxNoBuffer len), .chipW .bnry (ringPred s.cfg hdr.next), .chipR .curr hdr.next]
                   returned := .delivered 0 }
        ∧ ∀ c : Counter, stats.get c =
            if c = .rxDropped then (s.stats.get c + 1) % 2 ^ s.cfg.cntWidth else s.stats.get c)

/-- 42_receive.md R171, R173, R174: one bad frame, then an empty ring. A length outside the window is a length error whatever the
status; an in-range frame with a bad status is classified by FO, FAE and CRC. No buffer is asked for, and the ring advances. -/
def Obligations.DrainOneBadFrame : Prop :=
  ∀ (s : State) (this : Byte), 2 ≤ s.cfg.maxRxIter → s.currentPage = some this →
    let m := s.cfg.chipMap
    let curr := (s.env.chipAnswer .curr).1
    let hdr := ((s.env.chipAnswer .curr).2.headerAnswer this).1
    let left := ((s.env.chipAnswer .curr).2.headerAnswer this).2
    let len : Int := (hdr.count.toNat : Int) - (s.cfg.hdrLen : Int)
    let inRange : Prop := (s.cfg.ethZlen : Int) ≤ len ∧ len ≤ (s.cfg.ethFrameLen : Int) + (s.cfg.hdrLen : Int)
    let after (k : LogKind) (stats : Stats) : State :=
      { s with currentPage := some hdr.next
               stats := stats
               env := (left.chipAnswer .curr).2
               shadow := s.shadow.put .bnry (ringPred s.cfg hdr.next)
               trace := s.trace ++ [.chipR .curr curr, .getHeader this hdr, .log k,
                 .chipW .bnry (ringPred s.cfg hdr.next), .chipR .curr hdr.next]
               returned := .delivered 0 }
    inRing s.cfg curr = true → curr ≠ this →
    (∃ d ∈ s.cfg.wrapTol, (hdr.next.toNat : Int) = nextFrame s.cfg this hdr.count + d) → inRing s.cfg hdr.next = true →
    (left.chipAnswer .curr).1 = hdr.next →
    (¬ inRange → ∃ stats : Stats, exec .drain s = .next (after (.rxLength len) stats)
      ∧ ∀ c : Counter, stats.get c =
          if c = .rxErrors ∨ c = .rxLengthErrors then (s.stats.get c + 1) % 2 ^ s.cfg.cntWidth else s.stats.get c)
    ∧ (inRange → rxOk m hdr.status = false →
      ∃ stats : Stats, exec .drain s = .next (after (.rxStatusError hdr.status) stats)
        ∧ ∀ c : Counter, stats.get c =
            if c = .rxErrors ∨ (c = .rxFifoErrors ∧ hasBit hdr.status m.rsrFo = true)
              ∨ (c = .rxFrameErrors ∧ hasBit hdr.status m.rsrFae = true) ∨ (c = .rxCrcErrors ∧ hasBit hdr.status m.rsrCrc = true)
            then (s.stats.get c + 1) % 2 ^ s.cfg.cntWidth else s.stats.get c)

/-- 42_receive.md R163, R170, R177: an inconsistent header resynchronizes to the live write pointer, counts exactly one error and
asks for no buffer; the next iteration finds the ring empty. -/
def Obligations.DrainResyncs : Prop :=
  ∀ (s : State) (this : Byte), 2 ≤ s.cfg.maxRxIter → s.currentPage = some this →
    let curr := (s.env.chipAnswer .curr).1
    let hdr := ((s.env.chipAnswer .curr).2.headerAnswer this).1
    let left := ((s.env.chipAnswer .curr).2.headerAnswer this).2
    let computed := nextFrame s.cfg this hdr.count
    inRing s.cfg curr = true → curr ≠ this →
    (∀ d ∈ s.cfg.wrapTol, (hdr.next.toNat : Int) ≠ computed + d) ∨ inRing s.cfg hdr.next = false →
    (left.chipAnswer .curr).1 = curr →
    ∃ stats : Stats,
      exec .drain s = .next
        { s with currentPage := some curr
                 stats := stats
                 env := (left.chipAnswer .curr).2
                 shadow := s.shadow.put .bnry (ringPred s.cfg curr)
                 trace := s.trace ++ [.chipR .curr curr, .getHeader this hdr, .chipW .bnry (ringPred s.cfg curr),
                   .log (.ringCorrupt this hdr.next computed), .chipR .curr curr]
                 returned := .delivered 0 }
      ∧ ∀ c : Counter, stats.get c =
          if c = .rxErrors then (s.stats.get c + 1) % 2 ^ s.cfg.cntWidth else s.stats.get c

/-- 10_state.md R39, 42_receive.md R176: after every DRAIN from a state with the ring invariant, `currentPage` is the ring
successor of the boundary register. -/
def Obligations.DrainLeavesBoundaryOneBehind : Prop :=
  ∀ s t : State, RingInv s → s.currentPage ≠ none → exec .drain s = .next t →
    ∃ p b : Byte, t.currentPage = some p ∧ t.shadow.get .bnry = some b ∧ p = ringSucc t.cfg b
      ∧ inRing t.cfg p = true

/-! ## Interrupts -/

/-- 43_interrupt.md R188: the guard, in its order; a guarded IRQ logs, returns and touches nothing else. -/
def Obligations.IrqGuards : Prop :=
  ∀ s : State,
    let turnedAway (k : LogKind) : State :=
      { s with trace := s.trace ++ [.log k, .result .IRQ .unit], returned := .unit }
    (s.isOpen = false → exec .irq s = .next (turnedAway .irqWhileClosed))
    ∧ (s.isOpen = true → s.inHandler = true → exec .irq s = .next (turnedAway .irqReentrant))
    ∧ (s.isOpen = true → s.inHandler = false → s.irqMasked = true → exec .irq s = .next (turnedAway .irqWhileMasked))

/-- 43_interrupt.md R190 to R192, R199: an IRQ that finds no cause enters, reads ISR once and leaves; `n` nested `IRQ` steps land at
P_IRQ. -/
def Obligations.IrqWithoutCause : Prop :=
  ∀ s : State, s.fault = none → s.isOpen = true → s.inHandler = false → s.irqMasked = false →
    (s.env.chipAnswer .isr).1 = 0x00#8 →
    let n := s.env.nested.headD 0
    exec .irq s = .next
      { s with env := { (s.env.chipAnswer .isr).2 with nested := s.env.nested.tail }
               shadow := s.shadow.put .cr s.cfg.chipMap.crWindow0
               trace := s.trace ++ [.chipW .cr s.cfg.chipMap.crWindow0]
                 ++ (List.replicate n [Event.log .irqReentrant, .result .IRQ .unit]).flatten
                 ++ [.chipR .isr 0x00#8, .result .IRQ .unit]
               returned := .unit }

/-- 43_interrupt.md R183 to R186, R192, R193, 44_overrun.md R211, 60_exceptions.md R246: one serviced iteration, for every cause
value `v` but 0, then no cause. Entry leads to `entered`, and `a`, `b`, `c`, `d` are the states after the four routing places, each
what the one handler run there makes of the state before it (`ran`: `exec` of the handler, whose returned value the dispatcher does
not pass on): OVERRUN_RECOVER if OVW, else DRAIN if PRX or RXE; TX_DONE if PTX, else TX_ERROR if TXE; COUNTER_DRAIN if CNT; RDC_ACK
if RDC. Then one acknowledgement of exactly the causes handled, none if there are none, the re-arm, the next read, the result. OVW
itself is never acknowledged here, nor RST, nor TXE beside PTX. A fault of the first handler ends the IRQ there (entry 2). At each
of the two reads the nested `IRQ` steps listed for it land first (entry 6). -/
def Obligations.IrqServicesOneRound : Prop :=
  ∀ s : State, s.fault = none → s.isOpen = true → s.inHandler = false → s.irqMasked = false → 1 ≤ s.cfg.maxService →
    (s.env.chipAnswer .isr).1 ≠ 0x00#8 →
    let m := s.cfg.chipMap
    let v := (s.env.chipAnswer .isr).1
    let landed (n : Nat) : List Event := (List.replicate n [Event.log .irqReentrant, .result .IRQ .unit]).flatten
    let entered : State :=
      { s with inHandler := true
               env := { (s.env.chipAnswer .isr).2 with nested := s.env.nested.tail }
               shadow := s.shadow.put .cr m.crWindow0
               trace := s.trace ++ [.chipW .cr m.crWindow0] ++ landed (s.env.nested.headD 0) ++ [.chipR .isr v]
               returned := if s.env.nested.headD 0 = 0 then s.returned else .unit }
    let ran (i : Instr) (x y : State) : Prop := ∃ r, exec i x = .next { y with returned := r }
    let handled : Byte :=
      (if hasBit v m.isrOvw ∨ hasBit v (m.isrPrx ||| m.isrRxe) then m.isrPrx ||| m.isrRxe else 0x00#8)
        ||| (if hasBit v m.isrPtx then m.isrPtx else if hasBit v m.isrTxe then m.isrTxe else 0x00#8)
        ||| (if hasBit v m.isrCnt then m.isrCnt else 0x00#8) ||| (if hasBit v m.isrRdc then m.isrRdc else 0x00#8)
    let ack := v &&& handled
    let writes : List (ChipReg × Byte) := (if ack = 0x00#8 then [] else [(.isr, ack)]) ++ [(.cr, m.crStart)]
    (m = ChipMap.ns8390 → ack = if v &&& 0x02#8 ≠ 0x00#8 then v &&& 0x67#8 else v &&& 0x6D#8)
    ∧ ∃ a b c d : State,
        (if hasBit v m.isrOvw then ran .overrunRecover entered a
         else if hasBit v (m.isrPrx ||| m.isrRxe) then ran .drain entered a else a = entered)
        ∧ (a.fault ≠ none → ∃ r, exec .irq s = .next { a with returned := r })
        ∧ (a.fault = none →
            (if hasBit v m.isrPtx then ran .txDone a b else if hasBit v m.isrTxe then ran .txError a b else b = a)
            ∧ (if hasBit v m.isrCnt then ran .counterDrain b c else c = b)
            ∧ (if hasBit v m.isrRdc then ran .rdcAck c d else d = c)
            ∧ ((d.env.chipAnswer .isr).1 = 0x00#8 → exec .irq s = .next
                { d with inHandler := false
                         env := { (d.env.chipAnswer .isr).2 with nested := d.env.nested.tail }
                         shadow := d.shadow.putAll writes
                         trace := d.trace ++ writeEvents writes ++ landed (d.env.nested.headD 0)
                           ++ [.chipR .isr 0x00#8, .result .IRQ .unit]
                         returned := .unit }))

/-- 43_interrupt.md R182, R187, R194: a cause no handler serves (RST alone) keeps the loop running until the budget ends, and then
every pending cause is acknowledged in bulk, without a re-arm. -/
def Obligations.IrqBudgetExhausted : Prop :=
  ∀ s : State, s.cfg.chipMap = ChipMap.ns8390 → s.isOpen = true → s.inHandler = false → s.irqMasked = false →
    s.fault = none → s.env.nested = [] → s.env.listed .isr = List.replicate (s.cfg.maxService + 1) 0x80#8 →
    ∃ t, exec .irq s = .next t
      ∧ t = { s with shadow := t.shadow, env := t.env, returned := .unit, trace := t.trace }
      ∧ t.trace = s.trace ++ [.chipW .cr 0x20#8]
          ++ (List.replicate s.cfg.maxService [Event.chipR .isr 0x80#8, .chipW .cr 0x22#8]).flatten
          ++ [.chipR .isr 0x80#8, .chipW .isr 0x80#8, .log (.serviceBudgetExhausted 0x80#8), .result .IRQ .unit]

/-- 43_interrupt.md R199: IRQ completes in every state; past the guard the reentrancy flag is clear at its end, unless a handler raised
a fault, which ends the operation with the flag still set (60_exceptions.md R250); a guard path leaves it. What IRQ never changes
is in the record. -/
def Obligations.IrqExitClearsFlag : Prop :=
  ∀ s : State, ∃ t, exec .irq s = .next t
    ∧ t = { s with currentPage := t.currentPage, slot1 := t.slot1, slot2 := t.slot2, txing := t.txing, txqueue := t.txqueue
                   lasttx := t.lasttx, transStart := t.transStart, inHandler := t.inHandler, stats := t.stats
                   shadow := t.shadow, trace := t.trace, fault := t.fault, delivered := t.delivered
                   returned := t.returned, env := t.env }
    ∧ (s.fault = none → s.isOpen = true → s.inHandler = false → s.irqMasked = false →
        (t.fault = none → t.inHandler = false) ∧ (t.fault ≠ none → t.inHandler = true))
    ∧ (s.isOpen = false ∨ s.inHandler = true ∨ s.irqMasked = true → t.inHandler = s.inHandler)

/-- 43_interrupt.md R196: TX_ERROR. An aborted frame is completed by TX_DONE, which counts it; any other error only counts. -/
def Obligations.TxErrorResult : Prop :=
  ∀ s : State,
    let m := s.cfg.chipMap
    let tsr := (s.env.chipAnswer .tsr).1
    let logged : State :=
      { s with env := (s.env.chipAnswer .tsr).2, trace := s.trace ++ [.chipR .tsr tsr, .log (.txErrorClass tsr)] }
    (hasBit tsr (m.tsrAbt ||| m.tsrFu) = true → ∃ t, exec .txDone logged = .next t ∧ exec .txError s = .next t)
    ∧ (hasBit tsr (m.tsrAbt ||| m.tsrFu) = false →
        ∃ stats : Stats, exec .txError s = .next { logged with stats := stats, returned := .unit }
          ∧ ∀ c : Counter, stats.get c =
              if c = .txErrors ∨ (c = .txCarrierErrors ∧ hasBit tsr m.tsrCrs = true)
                ∨ (c = .txHeartbeatErrors ∧ hasBit tsr m.tsrCdh = true) ∨ (c = .txWindowErrors ∧ hasBit tsr m.tsrOwc = true)
              then (s.stats.get c + 1) % 2 ^ s.cfg.cntWidth else s.stats.get c)

/-- 41_transmit.md R156: an abort (TSR = ABT at both reads) seen by TX_ERROR is one aborted error, 16 collisions whatever NCR reads,
and a freed slot, with nothing retried. -/
def Obligations.SixteenCollisionsAbort : Prop :=
  ∀ (s : State) (i : Slot), s.cfg.chipMap = ChipMap.ns8390 → CountersFit s →
    (i = .one ∧ s.slot1 = .sending) ∨ (i = .two ∧ s.slot1 ≠ .sending ∧ s.cfg.numTxSlots = .two ∧ s.slot2 = .sending) →
    (∀ len, ¬ (i.other.exists s.cfg = true ∧ s.slot i.other = .loaded len)) →
    s.env.listed .tsr = [0x08#8, 0x08#8] →
    ∃ t, exec .txError s = .next t
      ∧ t.stats.get .txAbortedErrors = (s.stats.get .txAbortedErrors + 1) % 2 ^ s.cfg.cntWidth
      ∧ t.stats.get .collisions = (s.stats.get .collisions + 16) % 2 ^ s.cfg.cntWidth
      ∧ t.stats.get .txErrors = (s.stats.get .txErrors + 1) % 2 ^ s.cfg.cntWidth
      ∧ t.slot i = .free ∧ t.txing = false ∧ t.shadow = s.shadow

/-- 43_interrupt.md R197: COUNTER_DRAIN. -/
def Obligations.CounterDrainResult : Prop :=
  ∀ s : State,
    let a := s.env.chipAnswer .cntr0
    let b := a.2.chipAnswer .cntr1
    let c := b.2.chipAnswer .cntr2
    ∃ stats : Stats,
      exec .counterDrain s = .next
        { s with stats := stats
                 env := c.2
                 trace := s.trace ++ [.chipR .cntr0 a.1, .chipR .cntr1 b.1, .chipR .cntr2 c.1]
                 returned := .unit }
      ∧ ∀ k : Counter, stats.get k =
          if k = .rxFrameErrors then (s.stats.get k + a.1.toNat) % 2 ^ s.cfg.cntWidth
          else if k = .rxCrcErrors then (s.stats.get k + b.1.toNat) % 2 ^ s.cfg.cntWidth
          else if k = .rxMissedErrors then (s.stats.get k + c.1.toNat) % 2 ^ s.cfg.cntWidth
          else s.stats.get k

/-- 43_interrupt.md R198: RDC_ACK performs no event and changes nothing. -/
def Obligations.RdcAckResult : Prop := ∀ s : State, exec .rdcAck s = .next { s with returned := .unit }

/-! ## Overrun -/

/-- 44_overrun.md R216, R217: OVERRUN_RECOVER is its steps 1 to 5, one DRAIN whose result is dropped, and steps 6 and 7; a fault of the
DRAIN ends it there. -/
def Obligations.OverrunRecoverResult : Prop :=
  ∀ s : State,
    let m := s.cfg.chipMap
    let cr := (s.env.chipAnswer .cr).1
    let wasTxing := hasBit cr m.crTxp
    let isr := ((s.env.chipAnswer .cr).2.chipAnswer .isr).1
    let mustResend := wasTxing && !hasBit isr (m.isrPtx ||| m.isrTxe)
    let stopped : State :=
      { s with
          stats := s.stats.put .rxOverErrors ((s.stats.get .rxOverErrors + 1) % 2 ^ s.cfg.cntWidth)
          env := if wasTxing then ((s.env.chipAnswer .cr).2.chipAnswer .isr).2 else (s.env.chipAnswer .cr).2
          shadow := s.shadow.putAll
            [(.cr, m.crStop), (.rbcr0, 0x00#8), (.rbcr1, 0x00#8), (.tcr, m.tcrLoopback), (.cr, m.crStart)]
          trace := s.trace
            ++ [ .chipR .cr cr, .chipW .cr m.crStop, .wait s.cfg.overrunWaitMin, .chipW .rbcr0 0x00#8, .chipW .rbcr1 0x00#8 ]
            ++ (if wasTxing then [.chipR .isr isr] else [])
            ++ [ .chipW .tcr m.tcrLoopback, .chipW .cr m.crStart ] }
    let restart : List (ChipReg × Byte) :=
      [(.isr, m.isrOvw), (.tcr, m.tcrNormal)] ++ (if mustResend then [(.cr, m.crTrans)] else [])
    ∃ d, exec .drain stopped = .next d
      ∧ exec .overrunRecover s = .next
          (if d.fault = none then
            { d with shadow := d.shadow.putAll restart
                     trace := d.trace ++ writeEvents restart ++ [.log (.overrun wasTxing mustResend)]
                     returned := .unit }
          else { d with returned := .unit })

/-- 44_overrun.md R208 to R210, R215: recovery leaves the slots, the transmit bookkeeping, the multicast table, the station address and
the ring boundaries alone, TPSR and the byte count included, so a resend repeats the interrupted frame; it resets nothing. -/
def Obligations.OverrunRecoverFrame : Prop :=
  ∀ s : State, ∃ (t : State) (es : List Event), exec .overrunRecover s = .next t
    ∧ t = { s with currentPage := t.currentPage, stats := t.stats, shadow := t.shadow, trace := s.trace ++ es
                   fault := t.fault, delivered := t.delivered, env := t.env, returned := .unit }
    ∧ (∀ r : ChipReg, r ∉ [ChipReg.cr, .rbcr0, .rbcr1, .tcr, .isr, .bnry] → t.shadow.get r = s.shadow.get r)
    ∧ (∀ b, Event.resetChip b ∉ es)

end
end

