-- ==== Sys2Proof/Laws/Encoding.lean ====
section
/-! SUPPORT. The command word's fields read back from a word laid out by fields, and the opcode map read both ways. -/

namespace Sys2Proof

/-- One bit of a word laid out by fields. -/
theorem layout_bit (len : Half) (md : BitVec 2) (st : Bool) (op : Byte) (i : Nat) :
    (layout len md st op).getLsbD i =
      if i < 8 then op.getLsbD i else if i < 9 then st else if i < 11 then md.getLsbD (i - 9)
      else if i < 16 then false else len.getLsbD (i - 16) := by
  change BitVec.getLsbD (len ++ (0#5 ++ (md ++ (BitVec.ofBool st ++ op))) : BitVec (16 + (5 + (2 + (1 + 8))))) i = _
  simp only [BitVec.getLsbD_append]
  by_cases h1 : i < 8
  · simp [h1, show i < 1 + 8 by omega, show i < 2 + (1 + 8) by omega, show i < 5 + (2 + (1 + 8)) by omega]
  by_cases h2 : i < 9
  · obtain rfl : i = 8 := by omega
    simp
  by_cases h3 : i < 11
  · simp [h1, h2, h3, show i < 5 + (2 + (1 + 8)) by omega]
  by_cases h4 : i < 16
  · simp [h1, h2, h3, h4]
  · simp [h1, h2, h3, h4]

@[simp] theorem opField_layout (len : Half) (md : BitVec 2) (st : Bool) (op : Byte) :
    opField (layout len md st op) = op := by
  apply BitVec.eq_of_getLsbD_eq
  intro i hi
  rw [opField, BitVec.getLsbD_extractLsb', layout_bit]
  simp [hi]

@[simp] theorem stField_layout (len : Half) (md : BitVec 2) (st : Bool) (op : Byte) :
    stField (layout len md st op) = st := by
  rw [stField, layout_bit]; simp

@[simp] theorem mdField_layout (len : Half) (md : BitVec 2) (st : Bool) (op : Byte) :
    mdField (layout len md st op) = md := by
  apply BitVec.eq_of_getLsbD_eq
  intro i hi
  rw [mdField, BitVec.getLsbD_extractLsb', layout_bit]
  simp [hi, show ¬ 9 + i < 8 by omega, show 9 + i < 11 by omega]

@[simp] theorem reservedField_layout (len : Half) (md : BitVec 2) (st : Bool) (op : Byte) :
    reservedField (layout len md st op) = 0#5 := by
  apply BitVec.eq_of_getLsbD_eq
  intro i hi
  rw [reservedField, BitVec.getLsbD_extractLsb', layout_bit]
  simp [show ¬ 11 + i < 8 by omega, show ¬ 11 + i < 9 by omega, show 11 + i < 16 by omega]

@[simp] theorem lenField_layout (len : Half) (md : BitVec 2) (st : Bool) (op : Byte) :
    lenField (layout len md st op) = len := by
  apply BitVec.eq_of_getLsbD_eq
  intro i hi
  rw [lenField, BitVec.getLsbD_extractLsb', layout_bit]
  simp [hi, show ¬ 16 + i < 8 by omega, show ¬ 16 + i < 9 by omega, show ¬ 16 + i < 11 by omega]

/-- Every word with a zero reserved field is the layout of its own fields. -/
theorem layout_fields (w : Word) (h : reservedField w = 0#5) :
    layout (lenField w) (mdField w) (stField w) (opField w) = w := by
  apply BitVec.eq_of_getLsbD_eq
  intro i hi
  have hr : ∀ j, j < 5 → w.getLsbD (11 + j) = false := by
    intro j hj
    have := congrArg (fun b : BitVec 5 => b.getLsbD j) h
    simpa [reservedField, hj] using this
  rw [layout_bit, opField, stField, mdField, lenField, BitVec.getLsbD_extractLsb', BitVec.getLsbD_extractLsb',
    BitVec.getLsbD_extractLsb']
  by_cases h1 : i < 8
  · simp [h1]
  by_cases h2 : i < 9
  · obtain rfl : i = 8 := by omega
    simp
  by_cases h3 : i < 11
  · simp [h1, h2, h3, show i - 9 < 2 by omega, show 9 + (i - 9) = i by omega]
  by_cases h4 : i < 16
  · have := hr (i - 11) (by omega)
    rw [show 11 + (i - 11) = i by omega] at this
    simp [h1, h2, h3, h4, this]
  · simp [h1, h2, h3, h4, show i - 16 < 16 by omega, show 16 + (i - 16) = i by omega]

/-- The opcode map read forwards. -/
@[simp] theorem Op.ofCode?_code (o : Op) : Op.ofCode? o.code = some o := by cases o <;> rfl

/-- The opcode map read backwards: only an opcode of the map names an operation. -/
theorem Op.code_of_ofCode? {c : Byte} {o : Op} (h : Op.ofCode? c = some o) : o.code = c := by
  have := List.find?_some h
  simpa using this

theorem assembleOperands_op (o : Op) (w : Word) : (assembleOperands o w).op = o := by cases o <;> rfl

end Sys2Proof
end

