-- ==== Sys2Proof/Laws/Registers.lean ====
section
/-! SUPPORT. The shadow registers, the counters and the listed answers: reading one after an update. -/

namespace Sys2Proof.Machine

theorem ChipReg.index_injective : ∀ r q : ChipReg, r.index = q.index → r = q := by
  have hb : ∀ i : Fin 41, ∀ r : ChipReg, r.index = i → r = (match i.val with
      | 0 => .cr | 1 => .pstart | 2 => .pstop | 3 => .bnry | 4 => .tpsr | 5 => .tsr | 6 => .tbcr0
      | 7 => .ncr | 8 => .tbcr1 | 9 => .isr | 10 => .rbcr0 | 11 => .rbcr1 | 12 => .rcr | 13 => .tcr
      | 14 => .cntr0 | 15 => .dcr | 16 => .cntr1 | 17 => .imr | 18 => .cntr2
      | 19 => .par 0 | 20 => .par 1 | 21 => .par 2 | 22 => .par 3 | 23 => .par 4 | 24 => .par 5
      | 25 => .curr
      | 26 => .mar 0 | 27 => .mar 1 | 28 => .mar 2 | 29 => .mar 3 | 30 => .mar 4 | 31 => .mar 5 | 32 => .mar 6
      | 33 => .mar 7 | 34 => .clda0 | 35 => .clda1 | 36 => .crda0 | 37 => .crda1 | 38 => .rsar0 | 39 => .rsar1
      | _ => .fifo) := by
    intro i r h
    subst h
    cases r with
    | par j => fin_cases j <;> rfl
    | mar j => fin_cases j <;> rfl
    | _ => rfl
  intro r q h
  rw [hb r.index r rfl, hb r.index q h.symm]

theorem Shadow.get_put_same (sh : Shadow) (r : ChipReg) (v : Byte) : (sh.put r v).get r = some v := by
  unfold Shadow.get Shadow.put
  exact Vector.getElem_set_self _

theorem Shadow.get_put_other (sh : Shadow) {r q : ChipReg} (v : Byte) (h : q ≠ r) :
    (sh.put r v).get q = sh.get q := by
  unfold Shadow.get Shadow.put
  exact Vector.getElem_set_ne _ _ (fun he => h (ChipReg.index_injective q r (Fin.ext he.symm)))

@[simp] theorem Shadow.get_put (sh : Shadow) (r q : ChipReg) (v : Byte) :
    (sh.put r v).get q = if q = r then some v else sh.get q := by
  split
  · rename_i h; subst h; exact Shadow.get_put_same sh q v
  · exact Shadow.get_put_other sh v ‹_›

theorem Shadow.ext_get {a b : Shadow} (h : ∀ r, a.get r = b.get r) : a = b := by
  have hs : ∀ i : Fin 41, ∃ r : ChipReg, r.index = i := by
    intro i
    fin_cases i
    exacts [⟨.cr, rfl⟩, ⟨.pstart, rfl⟩, ⟨.pstop, rfl⟩, ⟨.bnry, rfl⟩, ⟨.tpsr, rfl⟩, ⟨.tsr, rfl⟩, ⟨.tbcr0, rfl⟩,
      ⟨.ncr, rfl⟩, ⟨.tbcr1, rfl⟩, ⟨.isr, rfl⟩, ⟨.rbcr0, rfl⟩, ⟨.rbcr1, rfl⟩, ⟨.rcr, rfl⟩, ⟨.tcr, rfl⟩, ⟨.cntr0, rfl⟩,
      ⟨.dcr, rfl⟩, ⟨.cntr1, rfl⟩, ⟨.imr, rfl⟩, ⟨.cntr2, rfl⟩, ⟨.par 0, rfl⟩, ⟨.par 1, rfl⟩, ⟨.par 2, rfl⟩, ⟨.par 3, rfl⟩,
      ⟨.par 4, rfl⟩, ⟨.par 5, rfl⟩, ⟨.curr, rfl⟩, ⟨.mar 0, rfl⟩, ⟨.mar 1, rfl⟩, ⟨.mar 2, rfl⟩, ⟨.mar 3, rfl⟩, ⟨.mar 4, rfl⟩,
      ⟨.mar 5, rfl⟩, ⟨.mar 6, rfl⟩, ⟨.mar 7, rfl⟩, ⟨.clda0, rfl⟩, ⟨.clda1, rfl⟩, ⟨.crda0, rfl⟩, ⟨.crda1, rfl⟩, ⟨.rsar0, rfl⟩,
      ⟨.rsar1, rfl⟩, ⟨.fifo, rfl⟩]
  apply Vector.ext
  intro i hi
  obtain ⟨r, hr⟩ := hs ⟨i, hi⟩
  have h1 := h r
  unfold Shadow.get at h1
  rw [hr] at h1
  exact h1

@[simp] theorem Stats.get_put (t : Stats) (c d : Counter) (n : Nat) :
    (t.put c n).get d = if d = c then n else t.get d := by
  cases c <;> cases d <;> rfl

/-- One counter after `Count`. -/
@[simp] theorem State.count_get (s : State) (c d : Counter) (n : Nat) :
    (s.count c n).stats.get d = if d = c then (s.stats.get c + n) % 2 ^ s.cfg.cntWidth else s.stats.get d := by
  simp [State.count]

theorem Stats.ext_get {a b : Stats} (h : ∀ c, a.get c = b.get c) : a = b := by
  have := h .rxPackets; have := h .rxBytes; have := h .rxErrors; have := h .rxDropped; have := h .rxLengthErrors
  have := h .rxFifoErrors; have := h .rxFrameErrors; have := h .rxCrcErrors; have := h .rxMissedErrors
  have := h .rxOverErrors; have := h .txPackets; have := h .txErrors; have := h .txAbortedErrors
  have := h .txCarrierErrors; have := h .txFifoErrors; have := h .txHeartbeatErrors; have := h .txWindowErrors
  have := h .collisions
  cases a; cases b; simp_all [Stats.get]

/-- An answer is taken from the first row under its key. -/
theorem takeFirst_cons_same {κ α : Type} [DecidableEq κ] (k : κ) (a : α) (rest : List (κ × α)) :
    takeFirst k ((k, a) :: rest) = some (a, rest) := by simp [takeFirst]

/-- No answer is listed under a key that heads no row. -/
theorem takeFirst_eq_none {κ α : Type} [DecidableEq κ] {k : κ} {l : List (κ × α)} :
    takeFirst k l = none ↔ ∀ p ∈ l, p.1 ≠ k := by
  induction l with
  | nil => simp [takeFirst]
  | cons p rest ih =>
    obtain ⟨k', a⟩ := p
    simp only [takeFirst]
    split
    · rename_i h; simp [h]
    · rename_i h
      split
      · rename_i he
        have : ¬ ∀ p ∈ rest, p.1 ≠ k := fun hc => by simp [ih.2 hc] at he
        exact iff_of_false (by simp) (fun hc => this fun p hp => hc p (List.mem_cons_of_mem _ hp))
      · rename_i he
        simp only [List.mem_cons, forall_eq_or_imp, true_iff]
        exact ⟨fun hc => h hc.symm, ih.1 he⟩

/-- Taking an answer under one key removes just that row of the key's rows. -/
theorem takeFirst_filter_same {κ α : Type} [DecidableEq κ] {k : κ} {l l' : List (κ × α)} {a : α}
    (h : takeFirst k l = some (a, l')) :
    (l.filter (fun p => p.1 = k)).map (·.2) = a :: (l'.filter (fun p => p.1 = k)).map (·.2) := by
  induction l generalizing l' with
  | nil => simp [takeFirst] at h
  | cons p rest ih =>
    obtain ⟨k', b⟩ := p
    simp only [takeFirst] at h
    split at h
    · rename_i hk; subst hk; simp at h; obtain ⟨rfl, rfl⟩ := h; simp
    · rename_i hk
      split at h
      · rename_i a' r' he
        simp at h; obtain ⟨rfl, rfl⟩ := h
        have := ih he
        simp [show ¬ k' = k from fun hc => hk hc.symm, this]
      · simp at h

/-- Taking an answer under one key leaves the rows of every other key. -/
theorem takeFirst_filter_other {κ α : Type} [DecidableEq κ] {k q : κ} {l l' : List (κ × α)} {a : α}
    (hq : q ≠ k) (h : takeFirst k l = some (a, l')) :
    l'.filter (fun p => p.1 = q) = l.filter (fun p => p.1 = q) := by
  induction l generalizing l' with
  | nil => simp [takeFirst] at h
  | cons p rest ih =>
    obtain ⟨k', b⟩ := p
    simp only [takeFirst] at h
    split at h
    · rename_i hk; subst hk; simp at h; obtain ⟨rfl, rfl⟩ := h
      simp [Ne.symm hq]
    · split at h
      · rename_i a' r' he
        simp at h; obtain ⟨rfl, rfl⟩ := h
        have := ih he
        simp [List.filter_cons, this]
      · simp at h

/-- A read of a register takes the register's first listed answer. -/
theorem Env.chipAnswer_listed {e : Env} {r : ChipReg} {v : Byte} {vs : List Byte} (h : e.listed r = v :: vs) :
    (e.chipAnswer r).1 = v ∧ (e.chipAnswer r).2.listed r = vs := by
  unfold Env.chipAnswer
  cases ht : takeFirst r e.chip with
  | none =>
    have := takeFirst_eq_none.1 ht
    have : e.listed r = [] := by
      unfold Env.listed
      rw [List.filter_eq_nil_iff.2 (fun p hp => by simpa using this p hp)]; rfl
    rw [this] at h; cases h
  | some p =>
    obtain ⟨a, l'⟩ := p
    have h' := takeFirst_filter_same ht
    unfold Env.listed at h ⊢
    rw [h] at h'
    simp only [List.cons.injEq] at h'
    exact ⟨h'.1.symm, h'.2.symm⟩

/-- A read of one register leaves the answers listed for every other. -/
theorem Env.chipAnswer_listed_other (e : Env) {r q : ChipReg} (h : q ≠ r) :
    (e.chipAnswer r).2.listed q = e.listed q := by
  unfold Env.chipAnswer Env.listed
  cases ht : takeFirst r e.chip with
  | none => rfl
  | some p => obtain ⟨a, l'⟩ := p; simp only [takeFirst_filter_other h ht]

@[simp] theorem Env.chipAnswer_nested (e : Env) (r : ChipReg) : (e.chipAnswer r).2.nested = e.nested := by
  unfold Env.chipAnswer; split <;> rfl

@[simp] theorem Env.headerAnswer_nested (e : Env) (p : Byte) : (e.headerAnswer p).2.nested = e.nested := by
  unfold Env.headerAnswer; split <;> rfl

@[simp] theorem Env.grantAnswer_nested (e : Env) (n : Nat) : (e.grantAnswer n).2.nested = e.nested := by
  unfold Env.grantAnswer; split <;> rfl

@[simp] theorem Env.headerAnswer_listed (e : Env) (p : Byte) (r : ChipReg) :
    (e.headerAnswer p).2.listed r = e.listed r := by
  unfold Env.headerAnswer Env.listed; split <;> rfl

@[simp] theorem Env.grantAnswer_listed (e : Env) (n : Nat) (r : ChipReg) :
    (e.grantAnswer n).2.listed r = e.listed r := by
  unfold Env.grantAnswer Env.listed; split <;> rfl

end Sys2Proof.Machine
end

