-- ==== Sys2Proof/Laws/State.lean ====
section
/-! SUPPORT. One lemma per field per update of the state, each by unfolding the one update, so that no later proof unfolds a
record update. `log`, `wait`, `finish` and `resetChip` are rewritten to `emit` and `returning`. -/

namespace Sys2Proof.Machine

variable (s : State)

@[simp] theorem State.log_eq_emit (k : LogKind) : s.log k = s.emit (.log k) := rfl
@[simp] theorem State.wait_eq_emit (d : Nat) : s.wait d = s.emit (.wait d) := rfl
@[simp] theorem State.resetChip_eq_emit : s.resetChip = s.emit (.resetChip s.mediaSelect) := rfl
@[simp] theorem State.finish_eq (op : Op) (v : RetVal) : s.finish op v = (s.emit (.result op v)).returning v := rfl

/-! ### emit -/

@[simp] theorem State.emit_cfg (e : Event) : (s.emit e).cfg = s.cfg := rfl
@[simp] theorem State.emit_currentPage (e : Event) : (s.emit e).currentPage = s.currentPage := rfl
@[simp] theorem State.emit_slot1 (e : Event) : (s.emit e).slot1 = s.slot1 := rfl
@[simp] theorem State.emit_slot2 (e : Event) : (s.emit e).slot2 = s.slot2 := rfl
@[simp] theorem State.emit_txing (e : Event) : (s.emit e).txing = s.txing := rfl
@[simp] theorem State.emit_txqueue (e : Event) : (s.emit e).txqueue = s.txqueue := rfl
@[simp] theorem State.emit_lasttx (e : Event) : (s.emit e).lasttx = s.lasttx := rfl
@[simp] theorem State.emit_transStart (e : Event) : (s.emit e).transStart = s.transStart := rfl
@[simp] theorem State.emit_mediaSelect (e : Event) : (s.emit e).mediaSelect = s.mediaSelect := rfl
@[simp] theorem State.emit_inHandler (e : Event) : (s.emit e).inHandler = s.inHandler := rfl
@[simp] theorem State.emit_irqMasked (e : Event) : (s.emit e).irqMasked = s.irqMasked := rfl
@[simp] theorem State.emit_isOpen (e : Event) : (s.emit e).isOpen = s.isOpen := rfl
@[simp] theorem State.emit_rxEnabled (e : Event) : (s.emit e).rxEnabled = s.rxEnabled := rfl
@[simp] theorem State.emit_mcMode (e : Event) : (s.emit e).mcMode = s.mcMode := rfl
@[simp] theorem State.emit_mcList (e : Event) : (s.emit e).mcList = s.mcList := rfl
@[simp] theorem State.emit_mcfilter (e : Event) : (s.emit e).mcfilter = s.mcfilter := rfl
@[simp] theorem State.emit_stats (e : Event) : (s.emit e).stats = s.stats := rfl
@[simp] theorem State.emit_shadow (e : Event) : (s.emit e).shadow = s.shadow := rfl
@[simp] theorem State.emit_trace (e : Event) : (s.emit e).trace = s.trace ++ [e] := rfl
@[simp] theorem State.emit_fault (e : Event) : (s.emit e).fault = s.fault := rfl
@[simp] theorem State.emit_mem (e : Event) : (s.emit e).mem = s.mem := rfl
@[simp] theorem State.emit_delivered (e : Event) : (s.emit e).delivered = s.delivered := rfl
@[simp] theorem State.emit_returned (e : Event) : (s.emit e).returned = s.returned := rfl
@[simp] theorem State.emit_operands (e : Event) : (s.emit e).operands = s.operands := rfl
@[simp] theorem State.emit_env (e : Event) : (s.emit e).env = s.env := rfl
@[simp] theorem State.emit_cmds (e : Event) : (s.emit e).cmds = s.cmds := rfl

/-! ### returning -/

@[simp] theorem State.returning_cfg (v : RetVal) : (s.returning v).cfg = s.cfg := rfl
@[simp] theorem State.returning_currentPage (v : RetVal) : (s.returning v).currentPage = s.currentPage := rfl
@[simp] theorem State.returning_slot1 (v : RetVal) : (s.returning v).slot1 = s.slot1 := rfl
@[simp] theorem State.returning_slot2 (v : RetVal) : (s.returning v).slot2 = s.slot2 := rfl
@[simp] theorem State.returning_txing (v : RetVal) : (s.returning v).txing = s.txing := rfl
@[simp] theorem State.returning_txqueue (v : RetVal) : (s.returning v).txqueue = s.txqueue := rfl
@[simp] theorem State.returning_lasttx (v : RetVal) : (s.returning v).lasttx = s.lasttx := rfl
@[simp] theorem State.returning_transStart (v : RetVal) : (s.returning v).transStart = s.transStart := rfl
@[simp] theorem State.returning_mediaSelect (v : RetVal) : (s.returning v).mediaSelect = s.mediaSelect := rfl
@[simp] theorem State.returning_inHandler (v : RetVal) : (s.returning v).inHandler = s.inHandler := rfl
@[simp] theorem State.returning_irqMasked (v : RetVal) : (s.returning v).irqMasked = s.irqMasked := rfl
@[simp] theorem State.returning_isOpen (v : RetVal) : (s.returning v).isOpen = s.isOpen := rfl
@[simp] theorem State.returning_rxEnabled (v : RetVal) : (s.returning v).rxEnabled = s.rxEnabled := rfl
@[simp] theorem State.returning_mcMode (v : RetVal) : (s.returning v).mcMode = s.mcMode := rfl
@[simp] theorem State.returning_mcList (v : RetVal) : (s.returning v).mcList = s.mcList := rfl
@[simp] theorem State.returning_mcfilter (v : RetVal) : (s.returning v).mcfilter = s.mcfilter := rfl
@[simp] theorem State.returning_stats (v : RetVal) : (s.returning v).stats = s.stats := rfl
@[simp] theorem State.returning_shadow (v : RetVal) : (s.returning v).shadow = s.shadow := rfl
@[simp] theorem State.returning_trace (v : RetVal) : (s.returning v).trace = s.trace := rfl
@[simp] theorem State.returning_fault (v : RetVal) : (s.returning v).fault = s.fault := rfl
@[simp] theorem State.returning_mem (v : RetVal) : (s.returning v).mem = s.mem := rfl
@[simp] theorem State.returning_delivered (v : RetVal) : (s.returning v).delivered = s.delivered := rfl
@[simp] theorem State.returning_returned (v : RetVal) : (s.returning v).returned = v := rfl
@[simp] theorem State.returning_operands (v : RetVal) : (s.returning v).operands = s.operands := rfl
@[simp] theorem State.returning_env (v : RetVal) : (s.returning v).env = s.env := rfl
@[simp] theorem State.returning_cmds (v : RetVal) : (s.returning v).cmds = s.cmds := rfl

/-! ### raise -/

@[simp] theorem State.raise_cfg (k : Fault) : (s.raise k).cfg = s.cfg := rfl
@[simp] theorem State.raise_currentPage (k : Fault) : (s.raise k).currentPage = s.currentPage := rfl
@[simp] theorem State.raise_slot1 (k : Fault) : (s.raise k).slot1 = s.slot1 := rfl
@[simp] theorem State.raise_slot2 (k : Fault) : (s.raise k).slot2 = s.slot2 := rfl
@[simp] theorem State.raise_txing (k : Fault) : (s.raise k).txing = s.txing := rfl
@[simp] theorem State.raise_txqueue (k : Fault) : (s.raise k).txqueue = s.txqueue := rfl
@[simp] theorem State.raise_lasttx (k : Fault) : (s.raise k).lasttx = s.lasttx := rfl
@[simp] theorem State.raise_transStart (k : Fault) : (s.raise k).transStart = s.transStart := rfl
@[simp] theorem State.raise_mediaSelect (k : Fault) : (s.raise k).mediaSelect = s.mediaSelect := rfl
@[simp] theorem State.raise_inHandler (k : Fault) : (s.raise k).inHandler = s.inHandler := rfl
@[simp] theorem State.raise_irqMasked (k : Fault) : (s.raise k).irqMasked = s.irqMasked := rfl
@[simp] theorem State.raise_isOpen (k : Fault) : (s.raise k).isOpen = s.isOpen := rfl
@[simp] theorem State.raise_rxEnabled (k : Fault) : (s.raise k).rxEnabled = s.rxEnabled := rfl
@[simp] theorem State.raise_mcMode (k : Fault) : (s.raise k).mcMode = s.mcMode := rfl
@[simp] theorem State.raise_mcList (k : Fault) : (s.raise k).mcList = s.mcList := rfl
@[simp] theorem State.raise_mcfilter (k : Fault) : (s.raise k).mcfilter = s.mcfilter := rfl
@[simp] theorem State.raise_stats (k : Fault) : (s.raise k).stats = s.stats := rfl
@[simp] theorem State.raise_shadow (k : Fault) : (s.raise k).shadow = s.shadow := rfl
@[simp] theorem State.raise_trace (k : Fault) : (s.raise k).trace = s.trace := rfl
@[simp] theorem State.raise_fault (k : Fault) : (s.raise k).fault = some k := rfl
@[simp] theorem State.raise_mem (k : Fault) : (s.raise k).mem = s.mem := rfl
@[simp] theorem State.raise_delivered (k : Fault) : (s.raise k).delivered = s.delivered := rfl
@[simp] theorem State.raise_returned (k : Fault) : (s.raise k).returned = s.returned := rfl
@[simp] theorem State.raise_operands (k : Fault) : (s.raise k).operands = s.operands := rfl
@[simp] theorem State.raise_env (k : Fault) : (s.raise k).env = s.env := rfl
@[simp] theorem State.raise_cmds (k : Fault) : (s.raise k).cmds = s.cmds := rfl

/-! ### chipWrite -/

@[simp] theorem State.chipWrite_cfg (r : ChipReg) (v : Byte) : (s.chipWrite r v).cfg = s.cfg := rfl
@[simp] theorem State.chipWrite_currentPage (r : ChipReg) (v : Byte) : (s.chipWrite r v).currentPage = s.currentPage := rfl
@[simp] theorem State.chipWrite_slot1 (r : ChipReg) (v : Byte) : (s.chipWrite r v).slot1 = s.slot1 := rfl
@[simp] theorem State.chipWrite_slot2 (r : ChipReg) (v : Byte) : (s.chipWrite r v).slot2 = s.slot2 := rfl
@[simp] theorem State.chipWrite_txing (r : ChipReg) (v : Byte) : (s.chipWrite r v).txing = s.txing := rfl
@[simp] theorem State.chipWrite_txqueue (r : ChipReg) (v : Byte) : (s.chipWrite r v).txqueue = s.txqueue := rfl
@[simp] theorem State.chipWrite_lasttx (r : ChipReg) (v : Byte) : (s.chipWrite r v).lasttx = s.lasttx := rfl
@[simp] theorem State.chipWrite_transStart (r : ChipReg) (v : Byte) : (s.chipWrite r v).transStart = s.transStart := rfl
@[simp] theorem State.chipWrite_mediaSelect (r : ChipReg) (v : Byte) : (s.chipWrite r v).mediaSelect = s.mediaSelect := rfl
@[simp] theorem State.chipWrite_inHandler (r : ChipReg) (v : Byte) : (s.chipWrite r v).inHandler = s.inHandler := rfl
@[simp] theorem State.chipWrite_irqMasked (r : ChipReg) (v : Byte) : (s.chipWrite r v).irqMasked = s.irqMasked := rfl
@[simp] theorem State.chipWrite_isOpen (r : ChipReg) (v : Byte) : (s.chipWrite r v).isOpen = s.isOpen := rfl
@[simp] theorem State.chipWrite_rxEnabled (r : ChipReg) (v : Byte) : (s.chipWrite r v).rxEnabled = s.rxEnabled := rfl
@[simp] theorem State.chipWrite_mcMode (r : ChipReg) (v : Byte) : (s.chipWrite r v).mcMode = s.mcMode := rfl
@[simp] theorem State.chipWrite_mcList (r : ChipReg) (v : Byte) : (s.chipWrite r v).mcList = s.mcList := rfl
@[simp] theorem State.chipWrite_mcfilter (r : ChipReg) (v : Byte) : (s.chipWrite r v).mcfilter = s.mcfilter := rfl
@[simp] theorem State.chipWrite_stats (r : ChipReg) (v : Byte) : (s.chipWrite r v).stats = s.stats := rfl
@[simp] theorem State.chipWrite_shadow (r : ChipReg) (v : Byte) : (s.chipWrite r v).shadow = s.shadow.put r v := rfl
@[simp] theorem State.chipWrite_trace (r : ChipReg) (v : Byte) : (s.chipWrite r v).trace = s.trace ++ [.chipW r v] := rfl
@[simp] theorem State.chipWrite_fault (r : ChipReg) (v : Byte) : (s.chipWrite r v).fault = s.fault := rfl
@[simp] theorem State.chipWrite_mem (r : ChipReg) (v : Byte) : (s.chipWrite r v).mem = s.mem := rfl
@[simp] theorem State.chipWrite_delivered (r : ChipReg) (v : Byte) : (s.chipWrite r v).delivered = s.delivered := rfl
@[simp] theorem State.chipWrite_returned (r : ChipReg) (v : Byte) : (s.chipWrite r v).returned = s.returned := rfl
@[simp] theorem State.chipWrite_operands (r : ChipReg) (v : Byte) : (s.chipWrite r v).operands = s.operands := rfl
@[simp] theorem State.chipWrite_env (r : ChipReg) (v : Byte) : (s.chipWrite r v).env = s.env := rfl
@[simp] theorem State.chipWrite_cmds (r : ChipReg) (v : Byte) : (s.chipWrite r v).cmds = s.cmds := rfl

/-! ### count -/

@[simp] theorem State.count_cfg (c : Counter) (n : Nat) : (s.count c n).cfg = s.cfg := rfl
@[simp] theorem State.count_currentPage (c : Counter) (n : Nat) : (s.count c n).currentPage = s.currentPage := rfl
@[simp] theorem State.count_slot1 (c : Counter) (n : Nat) : (s.count c n).slot1 = s.slot1 := rfl
@[simp] theorem State.count_slot2 (c : Counter) (n : Nat) : (s.count c n).slot2 = s.slot2 := rfl
@[simp] theorem State.count_txing (c : Counter) (n : Nat) : (s.count c n).txing = s.txing := rfl
@[simp] theorem State.count_txqueue (c : Counter) (n : Nat) : (s.count c n).txqueue = s.txqueue := rfl
@[simp] theorem State.count_lasttx (c : Counter) (n : Nat) : (s.count c n).lasttx = s.lasttx := rfl
@[simp] theorem State.count_transStart (c : Counter) (n : Nat) : (s.count c n).transStart = s.transStart := rfl
@[simp] theorem State.count_mediaSelect (c : Counter) (n : Nat) : (s.count c n).mediaSelect = s.mediaSelect := rfl
@[simp] theorem State.count_inHandler (c : Counter) (n : Nat) : (s.count c n).inHandler = s.inHandler := rfl
@[simp] theorem State.count_irqMasked (c : Counter) (n : Nat) : (s.count c n).irqMasked = s.irqMasked := rfl
@[simp] theorem State.count_isOpen (c : Counter) (n : Nat) : (s.count c n).isOpen = s.isOpen := rfl
@[simp] theorem State.count_rxEnabled (c : Counter) (n : Nat) : (s.count c n).rxEnabled = s.rxEnabled := rfl
@[simp] theorem State.count_mcMode (c : Counter) (n : Nat) : (s.count c n).mcMode = s.mcMode := rfl
@[simp] theorem State.count_mcList (c : Counter) (n : Nat) : (s.count c n).mcList = s.mcList := rfl
@[simp] theorem State.count_mcfilter (c : Counter) (n : Nat) : (s.count c n).mcfilter = s.mcfilter := rfl
@[simp] theorem State.count_stats (c : Counter) (n : Nat) : (s.count c n).stats = s.stats.put c ((s.stats.get c + n) % 2 ^ s.cfg.cntWidth) := rfl
@[simp] theorem State.count_shadow (c : Counter) (n : Nat) : (s.count c n).shadow = s.shadow := rfl
@[simp] theorem State.count_trace (c : Counter) (n : Nat) : (s.count c n).trace = s.trace := rfl
@[simp] theorem State.count_fault (c : Counter) (n : Nat) : (s.count c n).fault = s.fault := rfl
@[simp] theorem State.count_mem (c : Counter) (n : Nat) : (s.count c n).mem = s.mem := rfl
@[simp] theorem State.count_delivered (c : Counter) (n : Nat) : (s.count c n).delivered = s.delivered := rfl
@[simp] theorem State.count_returned (c : Counter) (n : Nat) : (s.count c n).returned = s.returned := rfl
@[simp] theorem State.count_operands (c : Counter) (n : Nat) : (s.count c n).operands = s.operands := rfl
@[simp] theorem State.count_env (c : Counter) (n : Nat) : (s.count c n).env = s.env := rfl
@[simp] theorem State.count_cmds (c : Counter) (n : Nat) : (s.count c n).cmds = s.cmds := rfl

/-! ### countIf -/

@[simp] theorem State.countIf_cfg (b : Bool) (c : Counter) : (s.countIf b c).cfg = s.cfg := by
  cases b <;> rfl
@[simp] theorem State.countIf_currentPage (b : Bool) (c : Counter) : (s.countIf b c).currentPage = s.currentPage := by
  cases b <;> rfl
@[simp] theorem State.countIf_slot1 (b : Bool) (c : Counter) : (s.countIf b c).slot1 = s.slot1 := by
  cases b <;> rfl
@[simp] theorem State.countIf_slot2 (b : Bool) (c : Counter) : (s.countIf b c).slot2 = s.slot2 := by
  cases b <;> rfl
@[simp] theorem State.countIf_txing (b : Bool) (c : Counter) : (s.countIf b c).txing = s.txing := by
  cases b <;> rfl
@[simp] theorem State.countIf_txqueue (b : Bool) (c : Counter) : (s.countIf b c).txqueue = s.txqueue := by
  cases b <;> rfl
@[simp] theorem State.countIf_lasttx (b : Bool) (c : Counter) : (s.countIf b c).lasttx = s.lasttx := by
  cases b <;> rfl
@[simp] theorem State.countIf_transStart (b : Bool) (c : Counter) : (s.countIf b c).transStart = s.transStart := by
  cases b <;> rfl
@[simp] theorem State.countIf_mediaSelect (b : Bool) (c : Counter) : (s.countIf b c).mediaSelect = s.mediaSelect := by
  cases b <;> rfl
@[simp] theorem State.countIf_inHandler (b : Bool) (c : Counter) : (s.countIf b c).inHandler = s.inHandler := by
  cases b <;> rfl
@[simp] theorem State.countIf_irqMasked (b : Bool) (c : Counter) : (s.countIf b c).irqMasked = s.irqMasked := by
  cases b <;> rfl
@[simp] theorem State.countIf_isOpen (b : Bool) (c : Counter) : (s.countIf b c).isOpen = s.isOpen := by
  cases b <;> rfl
@[simp] theorem State.countIf_rxEnabled (b : Bool) (c : Counter) : (s.countIf b c).rxEnabled = s.rxEnabled := by
  cases b <;> rfl
@[simp] theorem State.countIf_mcMode (b : Bool) (c : Counter) : (s.countIf b c).mcMode = s.mcMode := by
  cases b <;> rfl
@[simp] theorem State.countIf_mcList (b : Bool) (c : Counter) : (s.countIf b c).mcList = s.mcList := by
  cases b <;> rfl
@[simp] theorem State.countIf_mcfilter (b : Bool) (c : Counter) : (s.countIf b c).mcfilter = s.mcfilter := by
  cases b <;> rfl
@[simp] theorem State.countIf_stats (b : Bool) (c : Counter) : (s.countIf b c).stats = if b then (s.count c 1).stats else s.stats := by
  cases b <;> rfl
@[simp] theorem State.countIf_shadow (b : Bool) (c : Counter) : (s.countIf b c).shadow = s.shadow := by
  cases b <;> rfl
@[simp] theorem State.countIf_trace (b : Bool) (c : Counter) : (s.countIf b c).trace = s.trace := by
  cases b <;> rfl
@[simp] theorem State.countIf_fault (b : Bool) (c : Counter) : (s.countIf b c).fault = s.fault := by
  cases b <;> rfl
@[simp] theorem State.countIf_mem (b : Bool) (c : Counter) : (s.countIf b c).mem = s.mem := by
  cases b <;> rfl
@[simp] theorem State.countIf_delivered (b : Bool) (c : Counter) : (s.countIf b c).delivered = s.delivered := by
  cases b <;> rfl
@[simp] theorem State.countIf_returned (b : Bool) (c : Counter) : (s.countIf b c).returned = s.returned := by
  cases b <;> rfl
@[simp] theorem State.countIf_operands (b : Bool) (c : Counter) : (s.countIf b c).operands = s.operands := by
  cases b <;> rfl
@[simp] theorem State.countIf_env (b : Bool) (c : Counter) : (s.countIf b c).env = s.env := by
  cases b <;> rfl
@[simp] theorem State.countIf_cmds (b : Bool) (c : Counter) : (s.countIf b c).cmds = s.cmds := by
  cases b <;> rfl

/-! ### chipRead -/

@[simp] theorem State.chipRead_cfg (r : ChipReg) : ((s.chipRead r).2).cfg = s.cfg := rfl
@[simp] theorem State.chipRead_currentPage (r : ChipReg) : ((s.chipRead r).2).currentPage = s.currentPage := rfl
@[simp] theorem State.chipRead_slot1 (r : ChipReg) : ((s.chipRead r).2).slot1 = s.slot1 := rfl
@[simp] theorem State.chipRead_slot2 (r : ChipReg) : ((s.chipRead r).2).slot2 = s.slot2 := rfl
@[simp] theorem State.chipRead_txing (r : ChipReg) : ((s.chipRead r).2).txing = s.txing := rfl
@[simp] theorem State.chipRead_txqueue (r : ChipReg) : ((s.chipRead r).2).txqueue = s.txqueue := rfl
@[simp] theorem State.chipRead_lasttx (r : ChipReg) : ((s.chipRead r).2).lasttx = s.lasttx := rfl
@[simp] theorem State.chipRead_transStart (r : ChipReg) : ((s.chipRead r).2).transStart = s.transStart := rfl
@[simp] theorem State.chipRead_mediaSelect (r : ChipReg) : ((s.chipRead r).2).mediaSelect = s.mediaSelect := rfl
@[simp] theorem State.chipRead_inHandler (r : ChipReg) : ((s.chipRead r).2).inHandler = s.inHandler := rfl
@[simp] theorem State.chipRead_irqMasked (r : ChipReg) : ((s.chipRead r).2).irqMasked = s.irqMasked := rfl
@[simp] theorem State.chipRead_isOpen (r : ChipReg) : ((s.chipRead r).2).isOpen = s.isOpen := rfl
@[simp] theorem State.chipRead_rxEnabled (r : ChipReg) : ((s.chipRead r).2).rxEnabled = s.rxEnabled := rfl
@[simp] theorem State.chipRead_mcMode (r : ChipReg) : ((s.chipRead r).2).mcMode = s.mcMode := rfl
@[simp] theorem State.chipRead_mcList (r : ChipReg) : ((s.chipRead r).2).mcList = s.mcList := rfl
@[simp] theorem State.chipRead_mcfilter (r : ChipReg) : ((s.chipRead r).2).mcfilter = s.mcfilter := rfl
@[simp] theorem State.chipRead_stats (r : ChipReg) : ((s.chipRead r).2).stats = s.stats := rfl
@[simp] theorem State.chipRead_shadow (r : ChipReg) : ((s.chipRead r).2).shadow = s.shadow := rfl
@[simp] theorem State.chipRead_trace (r : ChipReg) : ((s.chipRead r).2).trace = s.trace ++ [.chipR r (s.chipRead r).1] := rfl
@[simp] theorem State.chipRead_fault (r : ChipReg) : ((s.chipRead r).2).fault = s.fault := rfl
@[simp] theorem State.chipRead_mem (r : ChipReg) : ((s.chipRead r).2).mem = s.mem := rfl
@[simp] theorem State.chipRead_delivered (r : ChipReg) : ((s.chipRead r).2).delivered = s.delivered := rfl
@[simp] theorem State.chipRead_returned (r : ChipReg) : ((s.chipRead r).2).returned = s.returned := rfl
@[simp] theorem State.chipRead_operands (r : ChipReg) : ((s.chipRead r).2).operands = s.operands := rfl
@[simp] theorem State.chipRead_env (r : ChipReg) : ((s.chipRead r).2).env = (s.env.chipAnswer r).2 := rfl
@[simp] theorem State.chipRead_cmds (r : ChipReg) : ((s.chipRead r).2).cmds = s.cmds := rfl

/-! ### getHeader -/

@[simp] theorem State.getHeader_cfg (p : Byte) : ((s.getHeader p).2).cfg = s.cfg := rfl
@[simp] theorem State.getHeader_currentPage (p : Byte) : ((s.getHeader p).2).currentPage = s.currentPage := rfl
@[simp] theorem State.getHeader_slot1 (p : Byte) : ((s.getHeader p).2).slot1 = s.slot1 := rfl
@[simp] theorem State.getHeader_slot2 (p : Byte) : ((s.getHeader p).2).slot2 = s.slot2 := rfl
@[simp] theorem State.getHeader_txing (p : Byte) : ((s.getHeader p).2).txing = s.txing := rfl
@[simp] theorem State.getHeader_txqueue (p : Byte) : ((s.getHeader p).2).txqueue = s.txqueue := rfl
@[simp] theorem State.getHeader_lasttx (p : Byte) : ((s.getHeader p).2).lasttx = s.lasttx := rfl
@[simp] theorem State.getHeader_transStart (p : Byte) : ((s.getHeader p).2).transStart = s.transStart := rfl
@[simp] theorem State.getHeader_mediaSelect (p : Byte) : ((s.getHeader p).2).mediaSelect = s.mediaSelect := rfl
@[simp] theorem State.getHeader_inHandler (p : Byte) : ((s.getHeader p).2).inHandler = s.inHandler := rfl
@[simp] theorem State.getHeader_irqMasked (p : Byte) : ((s.getHeader p).2).irqMasked = s.irqMasked := rfl
@[simp] theorem State.getHeader_isOpen (p : Byte) : ((s.getHeader p).2).isOpen = s.isOpen := rfl
@[simp] theorem State.getHeader_rxEnabled (p : Byte) : ((s.getHeader p).2).rxEnabled = s.rxEnabled := rfl
@[simp] theorem State.getHeader_mcMode (p : Byte) : ((s.getHeader p).2).mcMode = s.mcMode := rfl
@[simp] theorem State.getHeader_mcList (p : Byte) : ((s.getHeader p).2).mcList = s.mcList := rfl
@[simp] theorem State.getHeader_mcfilter (p : Byte) : ((s.getHeader p).2).mcfilter = s.mcfilter := rfl
@[simp] theorem State.getHeader_stats (p : Byte) : ((s.getHeader p).2).stats = s.stats := rfl
@[simp] theorem State.getHeader_shadow (p : Byte) : ((s.getHeader p).2).shadow = s.shadow := rfl
@[simp] theorem State.getHeader_trace (p : Byte) : ((s.getHeader p).2).trace = s.trace ++ [.getHeader p (s.getHeader p).1] := rfl
@[simp] theorem State.getHeader_fault (p : Byte) : ((s.getHeader p).2).fault = s.fault := rfl
@[simp] theorem State.getHeader_mem (p : Byte) : ((s.getHeader p).2).mem = s.mem := rfl
@[simp] theorem State.getHeader_delivered (p : Byte) : ((s.getHeader p).2).delivered = s.delivered := rfl
@[simp] theorem State.getHeader_returned (p : Byte) : ((s.getHeader p).2).returned = s.returned := rfl
@[simp] theorem State.getHeader_operands (p : Byte) : ((s.getHeader p).2).operands = s.operands := rfl
@[simp] theorem State.getHeader_env (p : Byte) : ((s.getHeader p).2).env = (s.env.headerAnswer p).2 := rfl
@[simp] theorem State.getHeader_cmds (p : Byte) : ((s.getHeader p).2).cmds = s.cmds := rfl

/-! ### getBuffer -/

@[simp] theorem State.getBuffer_cfg (n : Nat) : ((s.getBuffer n).2).cfg = s.cfg := rfl
@[simp] theorem State.getBuffer_currentPage (n : Nat) : ((s.getBuffer n).2).currentPage = s.currentPage := rfl
@[simp] theorem State.getBuffer_slot1 (n : Nat) : ((s.getBuffer n).2).slot1 = s.slot1 := rfl
@[simp] theorem State.getBuffer_slot2 (n : Nat) : ((s.getBuffer n).2).slot2 = s.slot2 := rfl
@[simp] theorem State.getBuffer_txing (n : Nat) : ((s.getBuffer n).2).txing = s.txing := rfl
@[simp] theorem State.getBuffer_txqueue (n : Nat) : ((s.getBuffer n).2).txqueue = s.txqueue := rfl
@[simp] theorem State.getBuffer_lasttx (n : Nat) : ((s.getBuffer n).2).lasttx = s.lasttx := rfl
@[simp] theorem State.getBuffer_transStart (n : Nat) : ((s.getBuffer n).2).transStart = s.transStart := rfl
@[simp] theorem State.getBuffer_mediaSelect (n : Nat) : ((s.getBuffer n).2).mediaSelect = s.mediaSelect := rfl
@[simp] theorem State.getBuffer_inHandler (n : Nat) : ((s.getBuffer n).2).inHandler = s.inHandler := rfl
@[simp] theorem State.getBuffer_irqMasked (n : Nat) : ((s.getBuffer n).2).irqMasked = s.irqMasked := rfl
@[simp] theorem State.getBuffer_isOpen (n : Nat) : ((s.getBuffer n).2).isOpen = s.isOpen := rfl
@[simp] theorem State.getBuffer_rxEnabled (n : Nat) : ((s.getBuffer n).2).rxEnabled = s.rxEnabled := rfl
@[simp] theorem State.getBuffer_mcMode (n : Nat) : ((s.getBuffer n).2).mcMode = s.mcMode := rfl
@[simp] theorem State.getBuffer_mcList (n : Nat) : ((s.getBuffer n).2).mcList = s.mcList := rfl
@[simp] theorem State.getBuffer_mcfilter (n : Nat) : ((s.getBuffer n).2).mcfilter = s.mcfilter := rfl
@[simp] theorem State.getBuffer_stats (n : Nat) : ((s.getBuffer n).2).stats = s.stats := rfl
@[simp] theorem State.getBuffer_shadow (n : Nat) : ((s.getBuffer n).2).shadow = s.shadow := rfl
@[simp] theorem State.getBuffer_trace (n : Nat) : ((s.getBuffer n).2).trace = s.trace ++ [.getBuffer n (s.getBuffer n).1] := rfl
@[simp] theorem State.getBuffer_fault (n : Nat) : ((s.getBuffer n).2).fault = s.fault := rfl
@[simp] theorem State.getBuffer_mem (n : Nat) : ((s.getBuffer n).2).mem = s.mem := rfl
@[simp] theorem State.getBuffer_delivered (n : Nat) : ((s.getBuffer n).2).delivered = s.delivered := rfl
@[simp] theorem State.getBuffer_returned (n : Nat) : ((s.getBuffer n).2).returned = s.returned := rfl
@[simp] theorem State.getBuffer_operands (n : Nat) : ((s.getBuffer n).2).operands = s.operands := rfl
@[simp] theorem State.getBuffer_env (n : Nat) : ((s.getBuffer n).2).env = (s.env.grantAnswer n).2 := rfl
@[simp] theorem State.getBuffer_cmds (n : Nat) : ((s.getBuffer n).2).cmds = s.cmds := rfl

/-! ### blockIn -/

@[simp] theorem State.blockIn_cfg (n : Nat) (o : Half) : (s.blockIn n o).cfg = s.cfg := rfl
@[simp] theorem State.blockIn_currentPage (n : Nat) (o : Half) : (s.blockIn n o).currentPage = s.currentPage := rfl
@[simp] theorem State.blockIn_slot1 (n : Nat) (o : Half) : (s.blockIn n o).slot1 = s.slot1 := rfl
@[simp] theorem State.blockIn_slot2 (n : Nat) (o : Half) : (s.blockIn n o).slot2 = s.slot2 := rfl
@[simp] theorem State.blockIn_txing (n : Nat) (o : Half) : (s.blockIn n o).txing = s.txing := rfl
@[simp] theorem State.blockIn_txqueue (n : Nat) (o : Half) : (s.blockIn n o).txqueue = s.txqueue := rfl
@[simp] theorem State.blockIn_lasttx (n : Nat) (o : Half) : (s.blockIn n o).lasttx = s.lasttx := rfl
@[simp] theorem State.blockIn_transStart (n : Nat) (o : Half) : (s.blockIn n o).transStart = s.transStart := rfl
@[simp] theorem State.blockIn_mediaSelect (n : Nat) (o : Half) : (s.blockIn n o).mediaSelect = s.mediaSelect := rfl
@[simp] theorem State.blockIn_inHandler (n : Nat) (o : Half) : (s.blockIn n o).inHandler = s.inHandler := rfl
@[simp] theorem State.blockIn_irqMasked (n : Nat) (o : Half) : (s.blockIn n o).irqMasked = s.irqMasked := rfl
@[simp] theorem State.blockIn_isOpen (n : Nat) (o : Half) : (s.blockIn n o).isOpen = s.isOpen := rfl
@[simp] theorem State.blockIn_rxEnabled (n : Nat) (o : Half) : (s.blockIn n o).rxEnabled = s.rxEnabled := rfl
@[simp] theorem State.blockIn_mcMode (n : Nat) (o : Half) : (s.blockIn n o).mcMode = s.mcMode := rfl
@[simp] theorem State.blockIn_mcList (n : Nat) (o : Half) : (s.blockIn n o).mcList = s.mcList := rfl
@[simp] theorem State.blockIn_mcfilter (n : Nat) (o : Half) : (s.blockIn n o).mcfilter = s.mcfilter := rfl
@[simp] theorem State.blockIn_stats (n : Nat) (o : Half) : (s.blockIn n o).stats = s.stats := rfl
@[simp] theorem State.blockIn_shadow (n : Nat) (o : Half) : (s.blockIn n o).shadow = s.shadow := rfl
@[simp] theorem State.blockIn_trace (n : Nat) (o : Half) : (s.blockIn n o).trace = s.trace ++ [.blockIn n o] := rfl
@[simp] theorem State.blockIn_fault (n : Nat) (o : Half) : (s.blockIn n o).fault = s.fault := rfl
@[simp] theorem State.blockIn_mem (n : Nat) (o : Half) : (s.blockIn n o).mem = s.mem := rfl
@[simp] theorem State.blockIn_delivered (n : Nat) (o : Half) : (s.blockIn n o).delivered = s.delivered ++
    [(List.range n).map (fun k => Config.freeRingByte s.env.draws (ringAddr s.cfg o k))] := rfl
@[simp] theorem State.blockIn_returned (n : Nat) (o : Half) : (s.blockIn n o).returned = s.returned := rfl
@[simp] theorem State.blockIn_operands (n : Nat) (o : Half) : (s.blockIn n o).operands = s.operands := rfl
@[simp] theorem State.blockIn_env (n : Nat) (o : Half) : (s.blockIn n o).env = { s.env with draws := s.env.draws + 1 } := rfl
@[simp] theorem State.blockIn_cmds (n : Nat) (o : Half) : (s.blockIn n o).cmds = s.cmds := rfl

/-! ### blockOut -/

@[simp] theorem State.blockOut_cfg (n : Nat) (d : List Byte) (p : Byte) : (s.blockOut n d p).cfg = s.cfg := rfl
@[simp] theorem State.blockOut_currentPage (n : Nat) (d : List Byte) (p : Byte) : (s.blockOut n d p).currentPage = s.currentPage := rfl
@[simp] theorem State.blockOut_slot1 (n : Nat) (d : List Byte) (p : Byte) : (s.blockOut n d p).slot1 = s.slot1 := rfl
@[simp] theorem State.blockOut_slot2 (n : Nat) (d : List Byte) (p : Byte) : (s.blockOut n d p).slot2 = s.slot2 := rfl
@[simp] theorem State.blockOut_txing (n : Nat) (d : List Byte) (p : Byte) : (s.blockOut n d p).txing = s.txing := rfl
@[simp] theorem State.blockOut_txqueue (n : Nat) (d : List Byte) (p : Byte) : (s.blockOut n d p).txqueue = s.txqueue := rfl
@[simp] theorem State.blockOut_lasttx (n : Nat) (d : List Byte) (p : Byte) : (s.blockOut n d p).lasttx = s.lasttx := rfl
@[simp] theorem State.blockOut_transStart (n : Nat) (d : List Byte) (p : Byte) : (s.blockOut n d p).transStart = s.transStart := rfl
@[simp] theorem State.blockOut_mediaSelect (n : Nat) (d : List Byte) (p : Byte) : (s.blockOut n d p).mediaSelect = s.mediaSelect := rfl
@[simp] theorem State.blockOut_inHandler (n : Nat) (d : List Byte) (p : Byte) : (s.blockOut n d p).inHandler = s.inHandler := rfl
@[simp] theorem State.blockOut_irqMasked (n : Nat) (d : List Byte) (p : Byte) : (s.blockOut n d p).irqMasked = s.irqMasked := rfl
@[simp] theorem State.blockOut_isOpen (n : Nat) (d : List Byte) (p : Byte) : (s.blockOut n d p).isOpen = s.isOpen := rfl
@[simp] theorem State.blockOut_rxEnabled (n : Nat) (d : List Byte) (p : Byte) : (s.blockOut n d p).rxEnabled = s.rxEnabled := rfl
@[simp] theorem State.blockOut_mcMode (n : Nat) (d : List Byte) (p : Byte) : (s.blockOut n d p).mcMode = s.mcMode := rfl
@[simp] theorem State.blockOut_mcList (n : Nat) (d : List Byte) (p : Byte) : (s.blockOut n d p).mcList = s.mcList := rfl
@[simp] theorem State.blockOut_mcfilter (n : Nat) (d : List Byte) (p : Byte) : (s.blockOut n d p).mcfilter = s.mcfilter := rfl
@[simp] theorem State.blockOut_stats (n : Nat) (d : List Byte) (p : Byte) : (s.blockOut n d p).stats = s.stats := rfl
@[simp] theorem State.blockOut_shadow (n : Nat) (d : List Byte) (p : Byte) : (s.blockOut n d p).shadow = s.shadow := rfl
@[simp] theorem State.blockOut_trace (n : Nat) (d : List Byte) (p : Byte) : (s.blockOut n d p).trace = s.trace ++ [.blockOut n p] := rfl
@[simp] theorem State.blockOut_fault (n : Nat) (d : List Byte) (p : Byte) : (s.blockOut n d p).fault = s.fault := rfl
@[simp] theorem State.blockOut_mem (n : Nat) (d : List Byte) (p : Byte) : (s.blockOut n d p).mem = Memory.copyIn p s.mem 0 (hostBytes d s.env.draws n) := rfl
@[simp] theorem State.blockOut_delivered (n : Nat) (d : List Byte) (p : Byte) : (s.blockOut n d p).delivered = s.delivered := rfl
@[simp] theorem State.blockOut_returned (n : Nat) (d : List Byte) (p : Byte) : (s.blockOut n d p).returned = s.returned := rfl
@[simp] theorem State.blockOut_operands (n : Nat) (d : List Byte) (p : Byte) : (s.blockOut n d p).operands = s.operands := rfl
@[simp] theorem State.blockOut_env (n : Nat) (d : List Byte) (p : Byte) : (s.blockOut n d p).env = { s.env with draws := s.env.draws + 1 } := rfl
@[simp] theorem State.blockOut_cmds (n : Nat) (d : List Byte) (p : Byte) : (s.blockOut n d p).cmds = s.cmds := rfl

/-! ### setSlot -/

@[simp] theorem State.setSlot_cfg (i : Slot) (v : SlotState) : (s.setSlot i v).cfg = s.cfg := by
  cases i <;> rfl
@[simp] theorem State.setSlot_currentPage (i : Slot) (v : SlotState) : (s.setSlot i v).currentPage = s.currentPage := by
  cases i <;> rfl
@[simp] theorem State.setSlot_slot1 (i : Slot) (v : SlotState) : (s.setSlot i v).slot1 = if i = .one then v else s.slot1 := by
  cases i <;> rfl
@[simp] theorem State.setSlot_slot2 (i : Slot) (v : SlotState) : (s.setSlot i v).slot2 = if i = .two then v else s.slot2 := by
  cases i <;> rfl
@[simp] theorem State.setSlot_txing (i : Slot) (v : SlotState) : (s.setSlot i v).txing = s.txing := by
  cases i <;> rfl
@[simp] theorem State.setSlot_txqueue (i : Slot) (v : SlotState) : (s.setSlot i v).txqueue = s.txqueue := by
  cases i <;> rfl
@[simp] theorem State.setSlot_lasttx (i : Slot) (v : SlotState) : (s.setSlot i v).lasttx = s.lasttx := by
  cases i <;> rfl
@[simp] theorem State.setSlot_transStart (i : Slot) (v : SlotState) : (s.setSlot i v).transStart = s.transStart := by
  cases i <;> rfl
@[simp] theorem State.setSlot_mediaSelect (i : Slot) (v : SlotState) : (s.setSlot i v).mediaSelect = s.mediaSelect := by
  cases i <;> rfl
@[simp] theorem State.setSlot_inHandler (i : Slot) (v : SlotState) : (s.setSlot i v).inHandler = s.inHandler := by
  cases i <;> rfl
@[simp] theorem State.setSlot_irqMasked (i : Slot) (v : SlotState) : (s.setSlot i v).irqMasked = s.irqMasked := by
  cases i <;> rfl
@[simp] theorem State.setSlot_isOpen (i : Slot) (v : SlotState) : (s.setSlot i v).isOpen = s.isOpen := by
  cases i <;> rfl
@[simp] theorem State.setSlot_rxEnabled (i : Slot) (v : SlotState) : (s.setSlot i v).rxEnabled = s.rxEnabled := by
  cases i <;> rfl
@[simp] theorem State.setSlot_mcMode (i : Slot) (v : SlotState) : (s.setSlot i v).mcMode = s.mcMode := by
  cases i <;> rfl
@[simp] theorem State.setSlot_mcList (i : Slot) (v : SlotState) : (s.setSlot i v).mcList = s.mcList := by
  cases i <;> rfl
@[simp] theorem State.setSlot_mcfilter (i : Slot) (v : SlotState) : (s.setSlot i v).mcfilter = s.mcfilter := by
  cases i <;> rfl
@[simp] theorem State.setSlot_stats (i : Slot) (v : SlotState) : (s.setSlot i v).stats = s.stats := by
  cases i <;> rfl
@[simp] theorem State.setSlot_shadow (i : Slot) (v : SlotState) : (s.setSlot i v).shadow = s.shadow := by
  cases i <;> rfl
@[simp] theorem State.setSlot_trace (i : Slot) (v : SlotState) : (s.setSlot i v).trace = s.trace := by
  cases i <;> rfl
@[simp] theorem State.setSlot_fault (i : Slot) (v : SlotState) : (s.setSlot i v).fault = s.fault := by
  cases i <;> rfl
@[simp] theorem State.setSlot_mem (i : Slot) (v : SlotState) : (s.setSlot i v).mem = s.mem := by
  cases i <;> rfl
@[simp] theorem State.setSlot_delivered (i : Slot) (v : SlotState) : (s.setSlot i v).delivered = s.delivered := by
  cases i <;> rfl
@[simp] theorem State.setSlot_returned (i : Slot) (v : SlotState) : (s.setSlot i v).returned = s.returned := by
  cases i <;> rfl
@[simp] theorem State.setSlot_operands (i : Slot) (v : SlotState) : (s.setSlot i v).operands = s.operands := by
  cases i <;> rfl
@[simp] theorem State.setSlot_env (i : Slot) (v : SlotState) : (s.setSlot i v).env = s.env := by
  cases i <;> rfl
@[simp] theorem State.setSlot_cmds (i : Slot) (v : SlotState) : (s.setSlot i v).cmds = s.cmds := by
  cases i <;> rfl

end Sys2Proof.Machine
end

