-- ==== Sys2Proof/Laws/Ops.lean ====
section
/-! SUPPORT. One lemma for each shared operation that says everything it does: register writes in order, the interrupt mask,
interrupt entry, preemption, the multicast rebuild and the initialization. -/

namespace Sys2Proof.Machine

variable (s : State)

@[simp] theorem writeEvents_nil : writeEvents [] = [] := rfl
@[simp] theorem writeEvents_cons (w : ChipReg × Byte) (ws : List (ChipReg × Byte)) :
    writeEvents (w :: ws) = .chipW w.1 w.2 :: writeEvents ws := rfl
@[simp] theorem writeEvents_append (a b : List (ChipReg × Byte)) :
    writeEvents (a ++ b) = writeEvents a ++ writeEvents b := List.map_append
@[simp] theorem writeEvents_length (ws : List (ChipReg × Byte)) : (writeEvents ws).length = ws.length := List.length_map _

@[simp] theorem Shadow.putAll_nil (sh : Shadow) : sh.putAll [] = sh := rfl
@[simp] theorem Shadow.putAll_cons (sh : Shadow) (w : ChipReg × Byte) (ws : List (ChipReg × Byte)) :
    sh.putAll (w :: ws) = (sh.put w.1 w.2).putAll ws := rfl
@[simp] theorem Shadow.putAll_append (sh : Shadow) (a b : List (ChipReg × Byte)) :
    sh.putAll (a ++ b) = (sh.putAll a).putAll b := List.foldl_append

/-- A register no write of the list names keeps its shadow. -/
theorem Shadow.get_putAll_other (sh : Shadow) {ws : List (ChipReg × Byte)} {q : ChipReg} (h : ∀ w ∈ ws, w.1 ≠ q) :
    (sh.putAll ws).get q = sh.get q := by
  induction ws generalizing sh with
  | nil => rfl
  | cons w rest ih =>
    rw [Shadow.putAll_cons, ih _ (fun v hv => h v (List.mem_cons_of_mem _ hv)),
      Shadow.get_put_other _ _ (h w List.mem_cons_self).symm]

/-- Register writes in order: their events, and the shadow after them. -/
theorem State.chipWrites_eq (ws : List (ChipReg × Byte)) :
    s.chipWrites ws = { s with shadow := s.shadow.putAll ws, trace := s.trace ++ writeEvents ws } := by
  induction ws generalizing s with
  | nil => simp [State.chipWrites]
  | cons w rest ih =>
    obtain ⟨r, v⟩ := w
    simp [State.chipWrites, ih, State.chipWrite]

theorem State.chipWrites_append (a b : List (ChipReg × Byte)) :
    s.chipWrites (a ++ b) = (s.chipWrites a).chipWrites b := by
  simp [State.chipWrites_eq]

/-! ### Preemption -/

@[simp] theorem nestedEvents_zero (g : Option LogKind) : nestedEvents g 0 = [] := by cases g <;> rfl

theorem nestedEvents_length (g : Option LogKind) (n : Nat) : (nestedEvents g n).length ≤ 2 * n := by
  cases g with
  | none => simp [nestedEvents]
  | some k => simp [nestedEvents]; omega

theorem State.nestedIrqs_eq (n : Nat) :
    s.nestedIrqs n = { s with trace := s.trace ++ nestedEvents (irqGuard s) n
                              returned := if n = 0 ∨ irqGuard s = none then s.returned else .unit } := by
  induction n generalizing s with
  | zero => simp [State.nestedIrqs]
  | succ n ih =>
    rw [State.nestedIrqs, ih]
    unfold State.nestedIrq
    cases hg : irqGuard s with
    | none => simp [hg, nestedEvents]
    | some k =>
      have h : irqGuard (s.irqTurnedAway k) = some k := by rw [← hg]; rfl
      simp only [h]
      simp [State.irqTurnedAway, State.emit, State.returning, nestedEvents, List.replicate_succ]

/-- A preemption point: the listed number of guarded `IRQ` steps, each a log and a result, and nothing else. -/
theorem State.preempt_eq :
    s.preempt = { s with env := { s.env with nested := s.env.nested.tail }
                         trace := s.trace ++ nestedEvents (irqGuard s) (s.env.nested.headD 0)
                         returned := if s.env.nested.headD 0 = 0 ∨ irqGuard s = none then s.returned else .unit } := by
  unfold State.preempt
  cases h : s.env.nested with
  | nil =>
    have : s.env = { s.env with nested := [] } := by rw [← h]
    simp [← this]
  | cons n rest => simp [State.nestedIrqs_eq, irqGuard]

/-! ### The multicast rebuild -/

/-- The writes of MC_REBUILD (45_multicast.md R233). -/
def rebuildWrites (s : State) : List (ChipReg × Byte) :=
  [(.rcr, s.cfg.chipMap.rcrOff)] ++ marWrites (mcTable s.mcMode s.mcList) ++ [(.rcr, restoredRcr s)]

@[simp] theorem marWrites_length (t : HashTable) : (marWrites t).length = 8 := by simp [marWrites]
@[simp] theorem rebuildWrites_length : (rebuildWrites s).length = 10 := by simp [rebuildWrites]

theorem mcRebuild_eq :
    mcRebuild s = { s with mcfilter := mcTable s.mcMode s.mcList
                           shadow := s.shadow.putAll (rebuildWrites s)
                           trace := s.trace ++ writeEvents (rebuildWrites s) } := by
  simp [mcRebuild, State.chipWrites_eq, State.chipWrite, rebuildWrites, restoredRcr]

/-! ### The initialization -/

/-- The writes of INIT (40_bringup.md R122). -/
def initWrites (start : Bool) (s : State) : List (ChipReg × Byte) :=
  programWrites s.cfg ++ [(.rcr, s.cfg.chipMap.rcrOff)] ++ marWrites (mcTable s.mcMode s.mcList)
    ++ [(.rcr, s.cfg.chipMap.rcrOff)]
    ++ if start then
        [(.isr, s.cfg.chipMap.isrAll), (.imr, s.cfg.chipMap.imrAll), (.cr, s.cfg.chipMap.crStart),
         (.tcr, s.cfg.chipMap.tcrNormal), (.rcr, rcrMode s.cfg.chipMap s.mcMode s.mcList)]
      else []

@[simp] theorem parWrites_length (a : MacAddr) : (parWrites a).length = 6 := by simp [parWrites]
@[simp] theorem programWrites_length (cfg : Cfg) : (programWrites cfg).length = 19 := by simp [programWrites]

theorem initWrites_length (start : Bool) : (initWrites start s).length ≤ 34 := by
  cases start <;> simp [initWrites]

theorem initialise_eq (start : Bool) :
    initialise start s =
      { s with currentPage := some s.cfg.rxStartPage
               slot1 := .free
               slot2 := if Slot.two.exists s.cfg then .free else s.slot2
               txing := false
               txqueue := 0
               inHandler := false
               irqMasked := false
               rxEnabled := start
               mcfilter := mcTable s.mcMode s.mcList
               shadow := s.shadow.putAll (initWrites start s)
               trace := s.trace ++ writeEvents (initWrites start s) } := by
  cases start
  · simp [initialise, State.chipWrites_eq, resetBookkeeping, mcRebuild_eq, rebuildWrites, initWrites, restoredRcr]
  · simp [initialise, State.chipWrites_eq, resetBookkeeping, mcRebuild_eq, rebuildWrites, initWrites, restoredRcr, startPath,
      State.chipWrite]

end Sys2Proof.Machine
end

