-- ==== Sys2Proof/Laws/Frames.lean ====
section
/-! SUPPORT. Frames: what the receive path, the transmit completion and the dispatcher leave unchanged. A frame is an equation
`t = s.withX t`: `t` is `s` with only the named fields of `t`. -/

namespace Sys2Proof.Machine

/-- `s` with the fields the receive path may change. -/
def State.withReceive (s t : State) : State :=
  { s with currentPage := t.currentPage, stats := t.stats, shadow := t.shadow, trace := t.trace, fault := t.fault
           delivered := t.delivered, env := t.env }

/-- `s` with the fields a transmit completion may change. -/
def State.withTransmit (s t : State) : State :=
  { s with slot1 := t.slot1, slot2 := t.slot2, txing := t.txing, txqueue := t.txqueue, lasttx := t.lasttx
           transStart := t.transStart, stats := t.stats, shadow := t.shadow, trace := t.trace, env := t.env }

/-- `s` with the fields the dispatcher's handlers may change. -/
def State.withHandlers (s t : State) : State :=
  { s with currentPage := t.currentPage, slot1 := t.slot1, slot2 := t.slot2, txing := t.txing, txqueue := t.txqueue
           lasttx := t.lasttx, transStart := t.transStart, stats := t.stats, shadow := t.shadow, trace := t.trace
           fault := t.fault, delivered := t.delivered, returned := t.returned, env := t.env }

/-- `s` with the counters of `t`. -/
def State.withStats (s t : State) : State := { s with stats := t.stats }

theorem State.withStats_trans {s t u : State} (h : t = s.withStats t) (h' : u = t.withStats u) : u = s.withStats u :=
  h'.trans (by rw [h]; rfl)

theorem State.withReceive_of_stats {s t : State} (h : t = s.withStats t) : t = s.withReceive t := by rw [h]; rfl

theorem State.withTransmit_of_stats {s t : State} (h : t = s.withStats t) : t = s.withTransmit t := by rw [h]; rfl

theorem State.withReceive_trans {s t u : State} (h : t = s.withReceive t) (h' : u = t.withReceive u) :
    u = s.withReceive u := h'.trans (by rw [h]; rfl)

theorem State.withTransmit_trans {s t u : State} (h : t = s.withTransmit t) (h' : u = t.withTransmit u) :
    u = s.withTransmit u := h'.trans (by rw [h]; rfl)

theorem State.withHandlers_trans {s t u : State} (h : t = s.withHandlers t) (h' : u = t.withHandlers u) :
    u = s.withHandlers u := h'.trans (by rw [h]; rfl)

theorem State.withHandlers_of_receive {s t : State} (h : t = s.withReceive t) : t = s.withHandlers t := by
  rw [h]; rfl

theorem State.withHandlers_of_transmit {s t : State} (h : t = s.withTransmit t) : t = s.withHandlers t := by
  rw [h]; rfl

variable (s : State)

/-! ### Counters alone -/

theorem State.countIf_frame (b : Bool) (c : Counter) : s.countIf b c = s.withStats (s.countIf b c) := by
  cases b <;> rfl

/-- TX_STATS changes the counters alone. -/
theorem txStats_frame (tsr : Byte) (ncr : Nat) : txStats tsr ncr s = s.withStats (txStats tsr ncr s) := by
  have h : ∀ t : State, ∀ b1 b2 b3 b4,
      (((((t.count .txErrors 1).countIf b1 .txCarrierErrors).countIf b2 .txFifoErrors).countIf b3 .txHeartbeatErrors).countIf
        b4 .txWindowErrors) = t.withStats
      (((((t.count .txErrors 1).countIf b1 .txCarrierErrors).countIf b2 .txFifoErrors).countIf b3 .txHeartbeatErrors).countIf
        b4 .txWindowErrors) := fun t b1 b2 b3 b4 =>
    State.withStats_trans (t := t.count .txErrors 1) rfl (State.withStats_trans (State.countIf_frame _ _ _)
      (State.withStats_trans (State.countIf_frame _ _ _) (State.withStats_trans (State.countIf_frame _ _ _)
        (State.countIf_frame _ _ _))))
  unfold txStats
  dsimp only
  split <;> split
  · rfl
  · rfl
  · exact State.withStats_trans (t := (s.count .collisions 16).count .txAbortedErrors 1) rfl (h _ _ _ _ _)
  · exact State.withStats_trans (t := s.count .collisions ncr) rfl (h _ _ _ _ _)

/-- COUNTER_DRAIN: three reads, three counters. -/
theorem counterDrain_receive : counterDrain s = s.withReceive (counterDrain s) := rfl

/-! ### The receive path -/

theorem statusError_receive (status : Byte) : statusError status s = s.withReceive (statusError status s) := by
  unfold statusError
  dsimp only
  refine State.withReceive_trans (State.withReceive_of_stats (State.withStats_trans (t := s.count .rxErrors 1) rfl
    (State.withStats_trans (State.countIf_frame _ _ _)
      (State.withStats_trans (State.countIf_frame _ _ _) (State.countIf_frame _ _ _))))) rfl

theorem deliver_receive (this : Byte) (n : Int) : (deliver this n s).2 = s.withReceive (deliver this n s).2 := by
  unfold deliver
  dsimp only
  split <;> rfl

theorem handleFrame_receive (rxing this : Byte) (hdr : Hdr) :
    (handleFrame rxing this hdr s).st = s.withReceive (handleFrame rxing this hdr s).st := by
  unfold handleFrame
  dsimp only
  split
  · rfl
  · split
    · rfl
    · split
      · exact State.withReceive_trans (deliver_receive s _ _) rfl
      · exact State.withReceive_trans (statusError_receive s _) rfl

theorem walkOne_receive : (walkOne s).st = s.withReceive (walkOne s).st := by
  unfold walkOne
  dsimp only
  split
  · rfl
  · split
    · rfl
    · split
      · rfl
      · exact State.withReceive_trans (t := ((s.chipRead .curr).2.getHeader _).2) rfl (handleFrame_receive _ _ _ _)

theorem walk_receive (n : Nat) : (walk n s).2 = s.withReceive (walk n s).2 := by
  induction n generalizing s with
  | zero => rfl
  | succ n ih =>
    simp only [walk]
    split
    · exact State.withReceive_trans (walkOne_receive s) (ih _)
    · exact walkOne_receive s

/-- DRAIN changes nothing outside the receive path. -/
theorem drain_receive : (drain s).2 = s.withReceive (drain s).2 := walk_receive s _

theorem State.andThen_receive {f : State → State} (h : f s = s.withReceive (f s)) :
    s.andThen f = s.withReceive (s.andThen f) := by
  unfold State.andThen
  split
  · rfl
  · exact h

theorem State.chipWrites_receive (ws : List (ChipReg × Byte)) : s.chipWrites ws = s.withReceive (s.chipWrites ws) := by
  rw [State.chipWrites_eq]; rfl

theorem overrunStop_receive : (overrunStop s).2 = s.withReceive (overrunStop s).2 :=
  State.withReceive_trans (t := s.count .rxOverErrors 1) rfl
    (State.withReceive_trans (t := ((s.count .rxOverErrors 1).chipRead .cr).2) rfl
      (State.withReceive_trans (t := (((s.count .rxOverErrors 1).chipRead .cr).2.chipWrite .cr s.cfg.chipMap.crStop).wait
        s.cfg.overrunWaitMin) rfl (State.chipWrites_receive _ _)))

theorem resendTest_receive (b : Bool) : (resendTest b s).2 = s.withReceive (resendTest b s).2 := by
  cases b <;> rfl

theorem overrunRestart_receive : overrunRestart s = s.withReceive (overrunRestart s) := rfl

theorem overrunFinish_receive (a b : Bool) : overrunFinish a b s = s.withReceive (overrunFinish a b s) := by
  cases b <;> rfl

/-- OVERRUN_RECOVER changes nothing outside the receive path. -/
theorem overrunRecover_receive : overrunRecover s = s.withReceive (overrunRecover s) :=
  State.withReceive_trans (overrunStop_receive s)
    (State.withReceive_trans (resendTest_receive _ _)
      (State.withReceive_trans (overrunRestart_receive _)
        (State.withReceive_trans (drain_receive _) (State.andThen_receive _ (overrunFinish_receive _ _ _)))))

/-! ### The transmit path -/

theorem triggerSend_transmit (i : Slot) (len : Half) (now : Tick) :
    triggerSend i len now s = s.withTransmit (triggerSend i len now s) := by
  unfold triggerSend
  rw [State.chipWrites_eq]
  rfl

theorem State.setSlot_transmit (i : Slot) (v : SlotState) : s.setSlot i v = s.withTransmit (s.setSlot i v) := by
  cases i <;> rfl

/-- The `lasttx` check appends at most its log. -/
theorem checkLastTx_eq (d : Slot) :
    checkLastTx d s = { s with trace := s.trace ++
      (if s.lasttx.started d then [] else [.log (.bogusLastTx s.lasttx d)]) } := by
  unfold checkLastTx
  split
  · simp
  · simp [State.emit]

theorem promote_transmit (done : Slot) (now : Tick) : promote done now s = s.withTransmit (promote done now s) := by
  unfold promote
  split
  · exact State.withTransmit_trans (triggerSend_transmit s _ _ now)
      (State.withTransmit_trans (State.setSlot_transmit _ _ _) rfl)
  · rfl

theorem retire_transmit (now : Tick) : retire now s = s.withTransmit (retire now s) := by
  unfold retire
  split
  · rfl
  · rename_i done _
    have h : checkLastTx done s = s.withTransmit (checkLastTx done s) := by rw [checkLastTx_eq]; rfl
    exact State.withTransmit_trans h (State.withTransmit_trans (State.setSlot_transmit _ _ _) (promote_transmit _ _ _))

/-- TX_DONE changes nothing outside the transmit path. -/
theorem txDone_transmit (now : Tick) : txDone now s = s.withTransmit (txDone now s) := by
  refine State.withTransmit_trans (t := ((s.chipRead .tsr).2.chipRead .ncr).2) rfl
    (State.withTransmit_trans (retire_transmit _ now) ?_)
  exact State.withTransmit_of_stats (txStats_frame _ _ _)

/-- TX_ERROR changes nothing outside the transmit path. -/
theorem txError_transmit (now : Tick) : txError now s = s.withTransmit (txError now s) := by
  unfold txError
  dsimp only
  split
  · exact State.withTransmit_trans (t := (s.chipRead .tsr).2.log _) rfl (txDone_transmit _ _)
  · exact State.withTransmit_trans (t := ((s.chipRead .tsr).2.log _).count .txErrors 1) rfl
      (State.withTransmit_of_stats (State.withStats_trans (State.countIf_frame _ _ _)
        (State.withStats_trans (State.countIf_frame _ _ _) (State.countIf_frame _ _ _))))

/-! ### The submission path -/

/-- What a submission and the timeout reset never change. -/
structure KeepsHost (s t : State) : Prop where
  cfg       : t.cfg = s.cfg
  isOpen    : t.isOpen = s.isOpen
  mcMode    : t.mcMode = s.mcMode
  mcList    : t.mcList = s.mcList
  delivered : t.delivered = s.delivered
  fault     : t.fault = s.fault
  operands  : t.operands = s.operands
  cmds      : t.cmds = s.cmds

theorem KeepsHost.trans {s t u : State} (h : KeepsHost s t) (h' : KeepsHost t u) : KeepsHost s u :=
  ⟨h'.cfg.trans h.cfg, h'.isOpen.trans h.isOpen, h'.mcMode.trans h.mcMode, h'.mcList.trans h.mcList,
    h'.delivered.trans h.delivered, h'.fault.trans h.fault, h'.operands.trans h.operands, h'.cmds.trans h.cmds⟩

theorem KeepsHost.refl : KeepsHost s s := ⟨rfl, rfl, rfl, rfl, rfl, rfl, rfl, rfl⟩

theorem KeepsHost.of_transmit {s t : State} (h : t = s.withTransmit t) : KeepsHost s t := by
  rw [h]; exact ⟨rfl, rfl, rfl, rfl, rfl, rfl, rfl, rfl⟩

theorem initialise_keeps (start : Bool) : KeepsHost s (initialise start s) := by
  rw [initialise_eq]; exact ⟨rfl, rfl, rfl, rfl, rfl, rfl, rfl, rfl⟩

/-- The state in which TX_TIMEOUT_RESET initializes: the ISR read, the log, the media choice and the board reset done
(41_transmit.md R137). -/
def State.cardReset (s : State) : State :=
  let isr := (s.env.chipAnswer .isr).1
  let media := if isr = 0x00#8 ∧ s.stats.txPackets = 0 then 1#1 - s.mediaSelect else s.mediaSelect
  { s with mediaSelect := media
           env := (s.env.chipAnswer .isr).2
           trace := s.trace ++ [.chipR .isr isr, .log (.txTimeout isr), .resetChip media] }

theorem cardReset_eq :
    (retryMedia (s.chipRead .isr).1 ((s.chipRead .isr).2.log (.txTimeout (s.chipRead .isr).1))).resetChip = s.cardReset := by
  unfold retryMedia State.cardReset
  by_cases h : (s.env.chipAnswer .isr).1 = 0x00#8 ∧ s.stats.txPackets = 0
  · simp [h, State.chipRead, State.emit]
  · simp [h, State.chipRead, State.emit]

/-- TX_TIMEOUT_RESET is the initialization of the reset card, and the new start tick. -/
theorem txTimeoutReset_eq (now : Tick) :
    txTimeoutReset now s = { initialise true s.cardReset with transStart := now } := by
  rw [← cardReset_eq]; rfl

theorem txTimeoutReset_keeps (now : Tick) : KeepsHost s (txTimeoutReset now s) := by
  rw [txTimeoutReset_eq, initialise_eq]
  exact ⟨rfl, rfl, rfl, rfl, rfl, rfl, rfl, rfl⟩

theorem sendOrQueue_transmit (i : Slot) (len : Half) (now : Tick) :
    sendOrQueue i len now s = s.withTransmit (sendOrQueue i len now s) := by
  unfold sendOrQueue
  split
  · rfl
  · exact State.withTransmit_trans (triggerSend_transmit s i len now)
      (State.withTransmit_trans (State.setSlot_transmit _ _ _) rfl)

theorem unmaskIrq_keeps : KeepsHost s s.unmaskIrq := ⟨rfl, rfl, rfl, rfl, rfl, rfl, rfl, rfl⟩

theorem finish_keeps (op : Op) (v : RetVal) : KeepsHost s (s.finish op v) := ⟨rfl, rfl, rfl, rfl, rfl, rfl, rfl, rfl⟩

theorem blockOut_keeps (n : Nat) (data : List Byte) (p : Byte) : KeepsHost s (s.blockOut n data p) :=
  ⟨rfl, rfl, rfl, rfl, rfl, rfl, rfl, rfl⟩

theorem loadSlot_keeps (len : Half) (res : SubmitResult) : KeepsHost s (loadSlot len res s) := by
  unfold loadSlot
  split
  · exact (show KeepsHost s (s.log .noFreeSlot) from ⟨rfl, rfl, rfl, rfl, rfl, rfl, rfl, rfl⟩).trans
      ((unmaskIrq_keeps _).trans (finish_keeps _ _ _))
  · rename_i i _
    have h1 := KeepsHost.of_transmit (State.setSlot_transmit s i (.loaded (sendLen s.cfg len)))
    have h2 := h1.trans (blockOut_keeps _ len.toNat s.operands.data (slotPage s.cfg i))
    have h3 := fun now => h2.trans (KeepsHost.of_transmit (sendOrQueue_transmit _ i (sendLen s.cfg len) now))
    exact ((h3 _).trans (unmaskIrq_keeps _)).trans (finish_keeps _ _ _)

theorem criticalSection_keeps (len : Half) (res : SubmitResult) : KeepsHost s (criticalSection len res s) := by
  have h : KeepsHost s s.maskIrq.preempt := by
    rw [State.preempt_eq]; exact ⟨rfl, rfl, rfl, rfl, rfl, rfl, rfl, rfl⟩
  unfold criticalSection
  exact h.trans (loadSlot_keeps _ _ _)

theorem submitFrame_keeps (len : Half) : KeepsHost s (submitFrame len s) := by
  unfold submitFrame
  split
  · exact ⟨rfl, rfl, rfl, rfl, rfl, rfl, rfl, rfl⟩
  · split
    · split
      · exact finish_keeps s _ _
      · exact (txTimeoutReset_keeps s _).trans (criticalSection_keeps _ _ _)
    · exact criticalSection_keeps s _ _

/-! ### The dispatcher -/

theorem State.andThen_handlers {f : State → State} (h : f s = s.withHandlers (f s)) :
    s.andThen f = s.withHandlers (s.andThen f) := by
  unfold State.andThen
  split
  · rfl
  · exact h

theorem routeReceive_handlers (v : Byte) : routeReceive v s = s.withHandlers (routeReceive v s) := by
  unfold routeReceive
  dsimp only
  split
  · exact State.withHandlers_of_receive (overrunRecover_receive s)
  · split
    · exact State.withHandlers_of_receive (drain_receive s)
    · rfl

theorem routeTransmit_transmit (v : Byte) (now : Tick) : routeTransmit v now s = s.withTransmit (routeTransmit v now s) := by
  unfold routeTransmit
  dsimp only
  split
  · exact txDone_transmit s now
  · split
    · exact txError_transmit s now
    · rfl

theorem routeTransmit_handlers (v : Byte) (now : Tick) : routeTransmit v now s = s.withHandlers (routeTransmit v now s) :=
  State.withHandlers_of_transmit (routeTransmit_transmit s v now)

theorem routeCounters_receive (v : Byte) : routeCounters v s = s.withReceive (routeCounters v s) := by
  unfold routeCounters
  split
  · exact counterDrain_receive s
  · rfl

theorem routeCounters_handlers (v : Byte) : routeCounters v s = s.withHandlers (routeCounters v s) :=
  State.withHandlers_of_receive (routeCounters_receive s v)

/-- RDC_ACK changes nothing (43_interrupt.md R198). -/
@[simp] theorem routeRemote_eq (v : Byte) : routeRemote v s = s := by
  unfold routeRemote rdcAck
  split <;> rfl

theorem routeRemote_handlers (v : Byte) : routeRemote v s = s.withHandlers (routeRemote v s) := by
  rw [routeRemote_eq]; rfl

theorem ackAndRearm_handlers (v : Byte) : ackAndRearm v s = s.withHandlers (ackAndRearm v s) := by
  unfold ackAndRearm
  dsimp only
  split <;> rfl

theorem serviceRound_handlers (now : Tick) (v : Byte) : serviceRound now v s = s.withHandlers (serviceRound now v s) := by
  refine State.withHandlers_trans (routeReceive_handlers s v) (State.andThen_handlers _ ?_)
  exact State.withHandlers_trans (routeTransmit_handlers _ v now) (State.withHandlers_trans (routeCounters_handlers _ v)
    (State.withHandlers_trans (routeRemote_handlers _ v) (ackAndRearm_handlers _ v)))

theorem pollCauses_handlers : (pollCauses s).2 = s.withHandlers (pollCauses s).2 := by
  unfold pollCauses
  rw [State.preempt_eq]
  rfl

theorem serviceLoop_handlers (now : Tick) (k : Nat) : serviceLoop now k s = s.withHandlers (serviceLoop now k s) := by
  induction k generalizing s with
  | zero =>
    simp only [serviceLoop]
    split
    · exact pollCauses_handlers s
    · exact State.withHandlers_trans (pollCauses_handlers s) rfl
  | succ k ih =>
    simp only [serviceLoop]
    split
    · exact pollCauses_handlers s
    · exact State.withHandlers_trans (pollCauses_handlers s)
        (State.withHandlers_trans (serviceRound_handlers _ now _) (State.andThen_handlers _ (ih _)))

/-- The dispatcher past its guard changes nothing outside its handlers' fields and the reentrancy flag, which is left set exactly
when a handler raised a fault. -/
theorem dispatchIrq_eq (now : Tick) :
    dispatchIrq now s = { s.withHandlers (dispatchIrq now s) with
      inHandler := (serviceLoop now s.cfg.maxService s.irqEntry).fault.isSome } := by
  have h := serviceLoop_handlers s.irqEntry now s.cfg.maxService
  unfold dispatchIrq State.andThen
  split
  · rename_i hf
    rw [hf, h]; rfl
  · rename_i hf
    rw [Bool.not_eq_true] at hf
    rw [hf, h]; rfl

end Sys2Proof.Machine
end

