-- ==== Sys2Proof/Laws/Receive.lean ====
section
/-! SUPPORT. The ring walker, one iteration at a time: how it ends, and what it does with a frame. -/

namespace Sys2Proof.Machine

variable (s : State)

/-- The state after the CURR read of an iteration. -/
abbrev State.currRead (s : State) : State :=
  { s with env := (s.env.chipAnswer .curr).2, trace := s.trace ++ [.chipR .curr (s.env.chipAnswer .curr).1] }

theorem walkOne_eq :
    walkOne s =
      if !inRing s.cfg (s.env.chipAnswer .curr).1 then ⟨false, 0, s.currRead.raise .currOutOfRing⟩
      else
        match s.currentPage with
        | none => ⟨false, 0, s.currRead.raise .unsetState⟩
        | some this =>
          if this = (s.env.chipAnswer .curr).1 then ⟨false, 0, s.currRead⟩
          else handleFrame (s.env.chipAnswer .curr).1 this (s.currRead.getHeader this).1 (s.currRead.getHeader this).2 := rfl

/-- CURR outside the ring ends the walk with its fault (20_memory.md R65). -/
theorem walkOne_outside (h : inRing s.cfg (s.env.chipAnswer .curr).1 = false) :
    walkOne s = ⟨false, 0, s.currRead.raise .currOutOfRing⟩ := by
  simp only [walkOne_eq, h, Bool.not_false, if_true]

/-- An unset ring pointer ends the walk with its fault (42_receive.md R166). -/
theorem walkOne_unset (h : inRing s.cfg (s.env.chipAnswer .curr).1 = true) (hp : s.currentPage = none) :
    walkOne s = ⟨false, 0, s.currRead.raise .unsetState⟩ := by
  simp only [walkOne_eq, h, hp, Bool.not_true, Bool.false_eq_true, if_false]

/-- The ring is empty when CURR is the ring pointer (R161). -/
theorem walkOne_empty {this : Byte} (h : inRing s.cfg (s.env.chipAnswer .curr).1 = true) (hp : s.currentPage = some this)
    (he : (s.env.chipAnswer .curr).1 = this) : walkOne s = ⟨false, 0, s.currRead⟩ := by
  simp only [walkOne_eq, h, hp, he.symm, Bool.not_true, Bool.false_eq_true, if_false, if_true]

/-- Otherwise the frame at the ring pointer is handled (R166). -/
theorem walkOne_frame {this : Byte} (h : inRing s.cfg (s.env.chipAnswer .curr).1 = true) (hp : s.currentPage = some this)
    (he : (s.env.chipAnswer .curr).1 ≠ this) :
    walkOne s = handleFrame (s.env.chipAnswer .curr).1 this (s.currRead.getHeader this).1 (s.currRead.getHeader this).2 := by
  simp only [walkOne_eq, h, hp, he.symm, Bool.not_true, Bool.false_eq_true, if_false]

theorem handleFrame_more (rxing this : Byte) (hdr : Hdr) : (handleFrame rxing this hdr s).more = true := by
  unfold handleFrame
  dsimp only
  split
  · rfl
  · split
    · rfl
    · split <;> rfl

/-- A walk whose first iteration ends it. -/
theorem walk_stop {n : Nat} (hn : 1 ≤ n) (h : (walkOne s).more = false) : walk n s = ((walkOne s).got, (walkOne s).st) := by
  obtain ⟨k, rfl⟩ : ∃ k, n = k + 1 := ⟨n - 1, by omega⟩
  simp [walk, h]

/-- A walk that handles one frame and then finds the ring empty. -/
theorem walk_one {n : Nat} (hn : 2 ≤ n) (h : (walkOne s).more = true) (he : (walkOne (walkOne s).st).more = false) :
    walk n s = ((walkOne s).got + (walkOne (walkOne s).st).got, (walkOne (walkOne s).st).st) := by
  obtain ⟨k, rfl⟩ : ∃ k, n = k + 1 := ⟨n - 1, by omega⟩
  rw [walk]
  simp only [h, if_true]
  rw [walk_stop _ (by omega) he]

/-- One counter after a conditional count. -/
theorem State.countIf_get (b : Bool) (e c : Counter) :
    (s.countIf b e).stats.get c =
      if b = true ∧ c = e then (s.stats.get e + 1) % 2 ^ s.cfg.cntWidth else s.stats.get c := by
  cases b <;> simp [State.countIf]

/-- A header is consistent (R163). -/
theorem consistent_iff {cfg : Cfg} {next : Byte} {computed : Int} :
    consistent cfg next computed = true ↔
      (∃ d ∈ cfg.wrapTol, (next.toNat : Int) = computed + d) ∧ inRing cfg next = true := by
  simp [consistent]

/-- What a status failure adds to each counter (R173). -/
theorem statusError_eq (status : Byte) :
    ∃ stats : Stats, statusError status s = { s with stats := stats, trace := s.trace ++ [.log (.rxStatusError status)] }
      ∧ ∀ c, stats.get c =
          if c = .rxErrors ∨ (c = .rxFifoErrors ∧ hasBit status s.cfg.chipMap.rsrFo = true)
            ∨ (c = .rxFrameErrors ∧ hasBit status s.cfg.chipMap.rsrFae = true)
            ∨ (c = .rxCrcErrors ∧ hasBit status s.cfg.chipMap.rsrCrc = true)
          then (s.stats.get c + 1) % 2 ^ s.cfg.cntWidth else s.stats.get c := by
  refine ⟨(statusError status s).stats, ?_, fun c => ?_⟩
  · have h : (((s.count .rxErrors 1).countIf (hasBit status s.cfg.chipMap.rsrFo) .rxFifoErrors).countIf
        (hasBit status s.cfg.chipMap.rsrFae) .rxFrameErrors).countIf (hasBit status s.cfg.chipMap.rsrCrc) .rxCrcErrors
        = s.withStats ((((s.count .rxErrors 1).countIf (hasBit status s.cfg.chipMap.rsrFo) .rxFifoErrors).countIf
        (hasBit status s.cfg.chipMap.rsrFae) .rxFrameErrors).countIf (hasBit status s.cfg.chipMap.rsrCrc) .rxCrcErrors) :=
      State.withStats_trans (t := s.count .rxErrors 1) rfl (State.withStats_trans (State.countIf_frame _ _ _)
        (State.withStats_trans (State.countIf_frame _ _ _) (State.countIf_frame _ _ _)))
    unfold statusError
    dsimp only
    generalize (((s.count .rxErrors 1).countIf (hasBit status s.cfg.chipMap.rsrFo) .rxFifoErrors).countIf
        (hasBit status s.cfg.chipMap.rsrFae) .rxFrameErrors).countIf (hasBit status s.cfg.chipMap.rsrCrc) .rxCrcErrors = u at h
    rw [h]
    rfl
  · show ((((s.count .rxErrors 1).countIf _ .rxFifoErrors).countIf _ .rxFrameErrors).countIf _ .rxCrcErrors).stats.get c = _
    simp only [State.countIf_get, State.count_get, State.countIf_cfg, State.count_cfg]
    cases c <;> simp

/-! ### What one iteration does with a frame -/

variable {s}

/-- An inconsistent header: resync (R170). -/
theorem handleFrame_resync {rxing this : Byte} {hdr : Hdr}
    (h : consistent s.cfg hdr.next (nextFrame s.cfg this hdr.count) = false) :
    handleFrame rxing this hdr s = ⟨true, 0,
      { s with currentPage := some rxing
               stats := s.stats.put .rxErrors ((s.stats.get .rxErrors + 1) % 2 ^ s.cfg.cntWidth)
               shadow := s.shadow.put .bnry (ringPred s.cfg rxing)
               trace := s.trace ++ [.chipW .bnry (ringPred s.cfg rxing),
                 .log (.ringCorrupt this hdr.next (nextFrame s.cfg this hdr.count))] }⟩ := by
  unfold handleFrame
  simp only [h, Bool.not_false, if_true]
  simp [resync, State.count, State.chipWrite, State.emit]

/-- A length outside the window: counted and skipped (R171). -/
theorem handleFrame_length {rxing this : Byte} {hdr : Hdr}
    (h : consistent s.cfg hdr.next (nextFrame s.cfg this hdr.count) = true)
    (hl : lengthInRange s.cfg (payloadLen s.cfg hdr) = false) :
    handleFrame rxing this hdr s = ⟨true, 0,
      { s with currentPage := some hdr.next
               stats := ((s.count .rxErrors 1).count .rxLengthErrors 1).stats
               shadow := s.shadow.put .bnry (ringPred s.cfg hdr.next)
               trace := s.trace ++ [.log (.rxLength (payloadLen s.cfg hdr)), .chipW .bnry (ringPred s.cfg hdr.next)] }⟩ := by
  unfold handleFrame
  simp only [h, hl, Bool.not_false, Bool.not_true, Bool.false_eq_true, if_true, if_false]
  simp [advance, lengthError, State.count, State.chipWrite, State.emit]

/-- A bad status: classified and skipped (R173). -/
theorem handleFrame_status {rxing this : Byte} {hdr : Hdr}
    (h : consistent s.cfg hdr.next (nextFrame s.cfg this hdr.count) = true)
    (hl : lengthInRange s.cfg (payloadLen s.cfg hdr) = true) (hs : rxOk s.cfg.chipMap hdr.status = false) :
    handleFrame rxing this hdr s = ⟨true, 0,
      { s with currentPage := some hdr.next
               stats := (statusError hdr.status s).stats
               shadow := s.shadow.put .bnry (ringPred s.cfg hdr.next)
               trace := s.trace ++ [.log (.rxStatusError hdr.status), .chipW .bnry (ringPred s.cfg hdr.next)] }⟩ := by
  unfold handleFrame
  simp only [h, hl, hs, Bool.not_true, Bool.false_eq_true, if_false]
  obtain ⟨st, he, -⟩ := statusError_eq s hdr.status
  rw [he]
  simp [advance, State.chipWrite]

/-- A good frame with a buffer granted: copied, counted, handed up (R172). -/
theorem handleFrame_granted {rxing this : Byte} {hdr : Hdr}
    (h : consistent s.cfg hdr.next (nextFrame s.cfg this hdr.count) = true)
    (hl : lengthInRange s.cfg (payloadLen s.cfg hdr) = true) (hs : rxOk s.cfg.chipMap hdr.status = true)
    (hg : (s.env.grantAnswer (payloadLen s.cfg hdr).toNat).1 = true) :
    handleFrame rxing this hdr s = ⟨true, 1,
      { s with currentPage := some hdr.next
               stats := ((s.count .rxPackets 1).count .rxBytes (payloadLen s.cfg hdr).toNat).stats
               delivered := s.delivered ++ [(List.range (payloadLen s.cfg hdr).toNat).map fun k =>
                 Config.freeRingByte (s.env.grantAnswer (payloadLen s.cfg hdr).toNat).2.draws
                   (ringAddr s.cfg (payloadOffset s.cfg this) k)]
               env := { (s.env.grantAnswer (payloadLen s.cfg hdr).toNat).2 with
                        draws := (s.env.grantAnswer (payloadLen s.cfg hdr).toNat).2.draws + 1 }
               shadow := s.shadow.put .bnry (ringPred s.cfg hdr.next)
               trace := s.trace ++ [.getBuffer (payloadLen s.cfg hdr).toNat true,
                 .blockIn (payloadLen s.cfg hdr).toNat (payloadOffset s.cfg this),
                 .chipW .bnry (ringPred s.cfg hdr.next)] }⟩ := by
  unfold handleFrame deliver
  simp only [h, hl, hs, State.getBuffer, hg, Bool.not_true, Bool.false_eq_true, if_true, if_false]
  simp [advance, State.blockIn, State.count, State.chipWrite]

/-- A good frame with no buffer: counted as dropped (R172). -/
theorem handleFrame_noBuffer {rxing this : Byte} {hdr : Hdr}
    (h : consistent s.cfg hdr.next (nextFrame s.cfg this hdr.count) = true)
    (hl : lengthInRange s.cfg (payloadLen s.cfg hdr) = true) (hs : rxOk s.cfg.chipMap hdr.status = true)
    (hg : (s.env.grantAnswer (payloadLen s.cfg hdr).toNat).1 = false) :
    handleFrame rxing this hdr s = ⟨true, 0,
      { s with currentPage := some hdr.next
               stats := (s.count .rxDropped 1).stats
               env := (s.env.grantAnswer (payloadLen s.cfg hdr).toNat).2
               shadow := s.shadow.put .bnry (ringPred s.cfg hdr.next)
               trace := s.trace ++ [.getBuffer (payloadLen s.cfg hdr).toNat false, .log (.rxNoBuffer (payloadLen s.cfg hdr)),
                 .chipW .bnry (ringPred s.cfg hdr.next)] }⟩ := by
  unfold handleFrame deliver
  simp only [h, hl, hs, State.getBuffer, hg, Bool.not_true, Bool.false_eq_true, if_true, if_false]
  simp [advance, State.count, State.chipWrite, State.emit]

/-- A walk that handles one frame and then finds the ring empty, with room for both iterations. -/
theorem drain_one {t : State} {k : Nat} {p : Byte} (hn : 2 ≤ s.cfg.maxRxIter) (h : walkOne s = ⟨true, k, t⟩)
    (hp : t.currentPage = some p) (hr : inRing t.cfg p = true) (he : (t.env.chipAnswer .curr).1 = p) :
    drain s = (k, { t with env := (t.env.chipAnswer .curr).2, trace := t.trace ++ [.chipR .curr p] }) := by
  have h' := walkOne_empty t (this := p) (by rw [he]; exact hr) hp he
  have := walk_one s hn (by rw [h]) (by rw [h]; simp only [h'])
  rw [h] at this
  simp only [h', State.currRead, he] at this
  exact this

end Sys2Proof.Machine
end

