-- ==== Sys2Proof/Laws/Memory.lean ====
section
/-! SUPPORT. Chip buffer memory: reading after a store, and the canonical form kept by every store. -/

namespace Sys2Proof.Machine

namespace Memory

theorem read_write_same (m : Memory) (x : Nat) (v : Byte) : (write m x v).read x = some v := by
  induction m with
  | nil => simp [write, read]
  | cons c rest ih =>
    obtain ⟨a, b⟩ := c
    simp only [write]
    split
    · simp [read]
    · split
      · simp [read]
      · rename_i h; simp [read, h, ih]

theorem read_write_other (m : Memory) {x y : Nat} (v : Byte) (h : y ≠ x) : (write m x v).read y = m.read y := by
  induction m with
  | nil => simp [write, read, h]
  | cons c rest ih =>
    obtain ⟨a, b⟩ := c
    simp only [write]
    split
    · simp [read, h]
    · split
      · rename_i hx; subst hx; simp [read, h]
      · simp [read, ih]

/-- Every address listed after a store was listed before it, or is the one stored to. -/
theorem mem_write {m : Memory} {x : Nat} {v : Byte} {c : Host.Cell} (h : c ∈ write m x v) : c = (x, v) ∨ c ∈ m := by
  induction m with
  | nil => exact Or.inl (by simpa [write] using h)
  | cons d rest ih =>
    obtain ⟨a, b⟩ := d
    simp only [write] at h
    split at h
    · simpa using h
    · split at h <;> rcases List.mem_cons.1 h with h | h
      · exact Or.inl h
      · exact Or.inr (List.mem_cons_of_mem _ h)
      · exact Or.inr (h ▸ List.mem_cons_self)
      · exact (ih h).imp id (List.mem_cons_of_mem _)

theorem rising_write {m : Memory} (x : Nat) (v : Byte) (h : m.Pairwise (fun c d => c.1 < d.1)) :
    (write m x v).Pairwise (fun c d => c.1 < d.1) := by
  induction m with
  | nil => simp [write]
  | cons d rest ih =>
    obtain ⟨a, b⟩ := d
    obtain ⟨ha, hr⟩ := List.pairwise_cons.1 h
    simp only [write]
    split
    · rename_i hx
      refine List.pairwise_cons.2 ⟨fun c hc => ?_, h⟩
      rcases List.mem_cons.1 hc with rfl | hc
      · exact hx
      · exact Nat.lt_trans hx (ha c hc)
    · split
      · rename_i hx; subst hx
        exact List.pairwise_cons.2 ⟨ha, hr⟩
      · refine List.pairwise_cons.2 ⟨fun c hc => ?_, ih hr⟩
        rcases mem_write hc with rfl | hc
        · simp only; omega
        · exact ha c hc

/-- A store to an address of the space keeps the canonical form. -/
theorem wf_write {m : Memory} {x : Nat} (v : Byte) (h : wf m) (hx : x < 65536) : wf (write m x v) := by
  refine ⟨rising_write x v h.1, fun c hc => ?_⟩
  rcases mem_write hc with rfl | hc
  · exact hx
  · exact h.2 c hc

theorem copyAddr_lt (page : Byte) (k : Nat) : copyAddr page k < 65536 := Nat.mod_lt _ (by decide)

/-- Two bytes of one copy of at most 65,536 bytes never share an address. -/
theorem copyAddr_inj {page : Byte} {j k : Nat} (hj : j < 65536) (hk : k < 65536)
    (h : copyAddr page j = copyAddr page k) : j = k := by
  unfold copyAddr at h; omega

/-- A copy keeps the canonical form. -/
theorem wf_copyIn (page : Byte) (bs : List Byte) {m : Memory} (k : Nat) (h : wf m) : wf (copyIn page m k bs) := by
  induction bs generalizing m k with
  | nil => exact h
  | cons b rest ih => exact ih (k + 1) (wf_write b h (copyAddr_lt page k))

/-- A copy leaves every address outside it alone. -/
theorem read_copyIn_other {page : Byte} {bs : List Byte} {m : Memory} {k a : Nat}
    (h : ∀ j, j < bs.length → a ≠ copyAddr page (k + j)) : (copyIn page m k bs).read a = m.read a := by
  induction bs generalizing m k with
  | nil => rfl
  | cons b rest ih =>
    rw [copyIn, ih (fun j hj => by have := h (j + 1) (by simpa using hj); rwa [show k + 1 + j = k + (j + 1) by omega])]
    exact read_write_other _ _ (h 0 (by simp))

/-- A copy puts byte `j` of its source at its `j`-th address. -/
theorem read_copyIn {page : Byte} {bs : List Byte} {m : Memory} {k j : Nat} (hj : j < bs.length)
    (hk : k + bs.length ≤ 65536) : (copyIn page m k bs).read (copyAddr page (k + j)) = some bs[j] := by
  induction bs generalizing m k j with
  | nil => simp at hj
  | cons b rest ih =>
    simp only [List.length_cons] at hj hk
    cases j with
    | zero =>
      rw [copyIn, read_copyIn_other (fun i hi he => ?_)]
      · simpa using read_write_same _ _ _
      · have := copyAddr_inj (by omega) (by omega) he
        omega
    | succ j =>
      rw [copyIn, show k + (j + 1) = k + 1 + j by omega, ih (by omega) (by omega)]
      simp

end Memory

@[simp] theorem hostBytes_length (data : List Byte) (draw n : Nat) : (hostBytes data draw n).length = n := by
  simp [hostBytes]

theorem hostBytes_getElem (data : List Byte) (draw n k : Nat) (h : k < (hostBytes data draw n).length) :
    (hostBytes data draw n)[k] = hostByte data draw k := by
  simp [hostBytes]

theorem hostByte_listed {data : List Byte} {k : Nat} (draw : Nat) (h : k < data.length) :
    hostByte data draw k = data[k] := by
  simp [hostByte, List.getD, h]

end Sys2Proof.Machine
end

