-- ==== Sys2Proof/Laws/Transmit.lean ====
section
/-! SUPPORT. The transmit scheduler: which slot is chosen, what a submission past its preemption point does, what TX_DONE does to
the slots, and what TX_STATS adds to each counter. -/

namespace Sys2Proof.Machine

variable (s : State)

/-! ### Which slot -/

/-- Slot `i` is the one a submission takes (41_transmit.md R130). -/
theorem freeSlot_eq_some {s : State} {i : Slot} :
    s.freeSlot = some i ↔ (i = .one ∧ s.slot1 = .free)
      ∨ (i = .two ∧ s.slot1 ≠ .free ∧ s.cfg.numTxSlots = .two ∧ s.slot2 = .free) := by
  cases i <;> cases hn : s.cfg.numTxSlots <;> cases h1 : s.slot1 <;> cases h2 : s.slot2 <;>
    simp [State.freeSlot, Slot.exists, hn, h1, h2]

/-- A slot is free exactly on an instance that is not busy (10_state.md R29). -/
theorem freeSlot_eq_none {s : State} : s.freeSlot = none ↔ s.busy = true := by
  cases hn : s.cfg.numTxSlots <;> cases h1 : s.slot1 <;> cases h2 : s.slot2 <;>
    simp [State.freeSlot, State.busy, Slot.exists, hn, h1, h2]

/-- Slot `i` is the one TX_DONE retires (R143). -/
theorem sendingSlot_eq_some {s : State} {i : Slot} :
    s.sendingSlot = some i ↔ (i = .one ∧ s.slot1 = .sending)
      ∨ (i = .two ∧ s.slot1 ≠ .sending ∧ s.cfg.numTxSlots = .two ∧ s.slot2 = .sending) := by
  cases i <;> cases hn : s.cfg.numTxSlots <;> cases h1 : s.slot1 <;> cases h2 : s.slot2 <;>
    simp [State.sendingSlot, Slot.exists, hn, h1, h2]

theorem sendingSlot_eq_none {s : State} :
    s.sendingSlot = none ↔ s.slot1 ≠ .sending ∧ (s.cfg.numTxSlots = .two → s.slot2 ≠ .sending) := by
  cases hn : s.cfg.numTxSlots <;> cases h1 : s.slot1 <;> cases h2 : s.slot2 <;>
    simp [State.sendingSlot, Slot.exists, hn, h1, h2]

theorem loadedLen_eq_some {s : State} {i : Slot} {len : Half} :
    s.loadedLen i = some len ↔ i.exists s.cfg = true ∧ s.slot i = .loaded len := by
  unfold State.loadedLen
  cases i.exists s.cfg <;> cases s.slot i <;> simp

theorem loadedLen_eq_none {s : State} {i : Slot} :
    s.loadedLen i = none ↔ ∀ len, ¬ (i.exists s.cfg = true ∧ s.slot i = .loaded len) := by
  unfold State.loadedLen
  cases i.exists s.cfg <;> cases s.slot i <;> simp

/-! ### Submission -/

/-- The writes of TRIGGER_SEND (R135). -/
def triggerWrites (i : Slot) (len : Half) (s : State) : List (ChipReg × Byte) :=
  [(.tbcr0, lowByte len), (.tbcr1, highByte len), (.tpsr, slotPage s.cfg i), (.cr, s.cfg.chipMap.crTrans)]

theorem triggerSend_eq (i : Slot) (len : Half) (now : Tick) :
    triggerSend i len now s = { s with transStart := now
                                       shadow := s.shadow.putAll (triggerWrites i len s)
                                       trace := s.trace ++ writeEvents (triggerWrites i len s) } := by
  simp only [triggerSend, State.chipWrites_eq, triggerWrites]

/-- The chip memory after the frame is copied to slot `i` (20_memory.md R75). -/
def frameCopied (i : Slot) (len : Half) (s : State) : Memory :=
  Memory.copyIn (slotPage s.cfg i) s.mem 0 (hostBytes s.operands.data s.env.draws len.toNat)

theorem read_frameCopied (i : Slot) (len : Half) {k : Nat} (hk : k < len.toNat) :
    (frameCopied i len s).read (copyAddr (slotPage s.cfg i) k) = some (hostByte s.operands.data s.env.draws k) := by
  have h := Memory.read_copyIn (page := slotPage s.cfg i) (m := s.mem) (k := 0) (j := k)
    (bs := hostBytes s.operands.data s.env.draws len.toNat) (by simpa using hk) (by have := len.isLt; simp; omega)
  rw [Nat.zero_add, hostBytes_getElem] at h
  exact h

theorem read_frameCopied_other (i : Slot) (len : Half) {a : Nat}
    (h : ∀ k, k < len.toNat → a ≠ copyAddr (slotPage s.cfg i) k) : (frameCopied i len s).read a = s.mem.read a :=
  Memory.read_copyIn_other (by simpa using h)

/-- What the guard says at P_SUBMIT of an open instance (43_interrupt.md R189). -/
def submitGuard (s : State) : LogKind := if s.inHandler then .irqReentrant else .irqWhileMasked

/-- The critical section of an open instance with slot `i` free, no transmit in flight: the frame is copied and sent. -/
theorem criticalSection_sends (len : Half) (res : SubmitResult) {i : Slot} (ho : s.isOpen = true) (ht : s.txing = false)
    (hi : s.freeSlot = some i) :
    criticalSection len res s =
      { s with slot1 := if i = .one then .sending else s.slot1
               slot2 := if i = .two then .sending else s.slot2
               txing := true
               lasttx := .startedBySubmit i
               transStart := s.operands.now
               irqMasked := false
               mem := frameCopied i len s
               env := { s.env with nested := s.env.nested.tail, draws := s.env.draws + 1 }
               shadow := s.shadow.putAll ([(.imr, s.cfg.chipMap.imrNone)] ++ triggerWrites i (sendLen s.cfg len) s
                 ++ [(.imr, s.cfg.chipMap.imrAll)])
               trace := s.trace ++ [.chipW .imr s.cfg.chipMap.imrNone]
                 ++ nestedEvents (some (submitGuard s)) (s.env.nested.headD 0)
                 ++ [.blockOut len.toNat (slotPage s.cfg i)] ++ writeEvents (triggerWrites i (sendLen s.cfg len) s)
                 ++ [.chipW .imr s.cfg.chipMap.imrAll, .result .SUBMIT (.submit res)]
               returned := .submit res } := by
  have hg : irqGuard s.maskIrq = some (submitGuard s) := by
    cases h : s.inHandler <;> simp [irqGuard, State.maskIrq, submitGuard, ho, h]
  have hf : s.maskIrq.preempt.freeSlot = some i := by rw [State.preempt_eq, ← hi]; rfl
  unfold criticalSection loadSlot
  rw [hf, State.preempt_eq, hg]
  simp only [sendOrQueue, State.blockOut, State.maskIrq, State.setSlot, triggerSend_eq]
  cases i <;> simp [ht, State.unmaskIrq, State.emit, State.returning, triggerWrites, frameCopied]

/-- The critical section of an open instance with slot `i` free, a transmit in flight: the frame is copied and queued. -/
theorem criticalSection_queues (len : Half) (res : SubmitResult) {i : Slot} (ho : s.isOpen = true) (ht : s.txing = true)
    (hi : s.freeSlot = some i) :
    criticalSection len res s =
      { s with slot1 := if i = .one then .loaded (sendLen s.cfg len) else s.slot1
               slot2 := if i = .two then .loaded (sendLen s.cfg len) else s.slot2
               txqueue := s.txqueue + 1
               irqMasked := false
               mem := frameCopied i len s
               env := { s.env with nested := s.env.nested.tail, draws := s.env.draws + 1 }
               shadow := (s.shadow.put .imr s.cfg.chipMap.imrNone).put .imr s.cfg.chipMap.imrAll
               trace := s.trace ++ [.chipW .imr s.cfg.chipMap.imrNone]
                 ++ nestedEvents (some (submitGuard s)) (s.env.nested.headD 0)
                 ++ [.blockOut len.toNat (slotPage s.cfg i), .chipW .imr s.cfg.chipMap.imrAll,
                     .result .SUBMIT (.submit res)]
               returned := .submit res } := by
  have hg : irqGuard s.maskIrq = some (submitGuard s) := by
    cases h : s.inHandler <;> simp [irqGuard, State.maskIrq, submitGuard, ho, h]
  have hf : s.maskIrq.preempt.freeSlot = some i := by rw [State.preempt_eq, ← hi]; rfl
  unfold criticalSection loadSlot
  rw [hf, State.preempt_eq, hg]
  simp only [sendOrQueue, State.blockOut, State.maskIrq, State.setSlot]
  cases i <;> simp [ht, State.unmaskIrq, State.emit, State.returning, frameCopied]

/-! ### Completion -/

/-- What TX_DONE does to the slots when slot `i` was sent and no other is loaded. -/
theorem retire_idle {i : Slot} (now : Tick) (hi : s.sendingSlot = some i) (hl : s.loadedLen i.other = none) :
    retire now s =
      { s with slot1 := if i = .one then .free else s.slot1
               slot2 := if i = .two then .free else s.slot2
               txing := false
               lasttx := .idleAfter i
               trace := s.trace ++ (if s.lasttx.started i then [] else [.log (.bogusLastTx s.lasttx i)]) } := by
  have hl' : ((checkLastTx i s).setSlot i .free).loadedLen i.other = none := by
    rw [← hl, checkLastTx_eq]; cases i <;> rfl
  unfold retire
  rw [hi]
  simp only [promote, hl']
  rw [checkLastTx_eq]
  cases i <;> rfl

/-- What TX_DONE does to the slots when slot `i` was sent and the other is loaded. -/
theorem retire_promotes {i : Slot} {len : Half} (now : Tick) (hi : s.sendingSlot = some i)
    (hl : s.loadedLen i.other = some len) :
    retire now s =
      { s with slot1 := if i = .one then .free else .sending
               slot2 := if i = .two then .free else .sending
               txqueue := s.txqueue - 1
               lasttx := .startedByCompletion i.other
               transStart := now
               shadow := s.shadow.putAll (triggerWrites i.other len s)
               trace := s.trace ++ (if s.lasttx.started i then [] else [.log (.bogusLastTx s.lasttx i)])
                 ++ writeEvents (triggerWrites i.other len s) } := by
  have hl' : ((checkLastTx i s).setSlot i .free).loadedLen i.other = some len := by
    rw [← hl, checkLastTx_eq]; cases i <;> rfl
  unfold retire
  rw [hi]
  simp only [promote, hl', triggerSend_eq]
  rw [checkLastTx_eq]
  cases i <;> rfl

/-- Each counter of `t` is that of `s` plus `f`, modulo the width. -/
def State.Counted (s : State) (f : Counter → Nat) (t : State) : Prop :=
  t.cfg = s.cfg ∧ ∀ c, t.stats.get c = (s.stats.get c + f c) % 2 ^ s.cfg.cntWidth

theorem State.Counted.refl {s : State} (h : ∀ c, s.stats.get c < 2 ^ s.cfg.cntWidth) : s.Counted (fun _ => 0) s :=
  ⟨rfl, fun c => (Nat.mod_eq_of_lt (h c)).symm⟩

theorem State.Counted.count {s t : State} {f : Counter → Nat} (h : s.Counted f t) (d : Counter) (n : Nat) :
    s.Counted (fun c => f c + if c = d then n else 0) (t.count d n) := by
  refine ⟨h.1, fun c => ?_⟩
  rw [State.count_get, h.1, h.2]
  split
  · rename_i hc; subst hc; rw [Nat.mod_add_mod, Nat.add_assoc]; simp
  · rename_i hc; rw [h.2]; simp [hc]

theorem State.Counted.countIf {s t : State} {f : Counter → Nat} (h : s.Counted f t) (b : Bool) (d : Counter) :
    s.Counted (fun c => f c + if b = true ∧ c = d then 1 else 0) (t.countIf b d) := by
  cases b
  · simpa [State.countIf] using h
  · simpa [State.countIf] using h.count d 1

/-- The NS8390's collision count is bits 3:0 of NCR (30_encoding.md R102). -/
theorem collisionCount_ns8390 (ncr : Byte) : collisionCount ChipMap.ns8390 ncr = ncr.toNat % 16 := rfl

/-- TX_STATS, one counter at a time (R152). -/
theorem txStats_get (tsr : Byte) (ncr : Nat) (h : ∀ c, s.stats.get c < 2 ^ s.cfg.cntWidth) (c : Counter) :
    (txStats tsr ncr s).stats.get c = (s.stats.get c + txCounts s.cfg.chipMap tsr ncr c) % 2 ^ s.cfg.cntWidth := by
  have h0 := State.Counted.refl h
  unfold txStats
  dsimp only
  cases ha : hasBit tsr s.cfg.chipMap.tsrAbt <;> cases hp : hasBit tsr s.cfg.chipMap.tsrPtx <;>
    simp only [Bool.false_eq_true, if_true, if_false]
  · rw [(((((h0.count .collisions ncr).count .txErrors 1).countIf _ .txCarrierErrors).countIf _ .txFifoErrors).countIf _
      .txHeartbeatErrors).countIf _ .txWindowErrors |>.2 c]
    cases c <;> simp [txCounts, ha, hp]
  · rw [((h0.count .collisions ncr).count .txPackets 1).2 c]
    cases c <;> simp [txCounts, ha, hp]
  · rw [((((((h0.count .collisions 16).count .txAbortedErrors 1).count .txErrors 1).countIf _ .txCarrierErrors).countIf _
      .txFifoErrors).countIf _ .txHeartbeatErrors).countIf _ .txWindowErrors |>.2 c]
    cases c <;> simp [txCounts, ha, hp]
  · rw [(((h0.count .collisions 16).count .txAbortedErrors 1).count .txPackets 1).2 c]
    cases c <;> simp [txCounts, ha, hp]

end Sys2Proof.Machine
end

