-- ==== Sys2Proof/Laws/Interrupt.lean ====
section
/-! SUPPORT. The dispatcher: the poll of an iteration with its preemption point, the acknowledgement, and how the loop ends. -/

namespace Sys2Proof.Machine

variable (s : State)

/-- A chip answer does not depend on the listed preemptions, and leaves them. -/
theorem Env.chipAnswer_withNested (e : Env) (n : List Nat) (r : ChipReg) :
    ({ e with nested := n }.chipAnswer r) = ((e.chipAnswer r).1, { (e.chipAnswer r).2 with nested := n }) := by
  unfold Env.chipAnswer
  dsimp only
  cases takeFirst r e.chip <;> rfl

/-- The preemption point and the ISR read of an iteration (43_interrupt.md R183, R193). -/
theorem pollCauses_eq :
    pollCauses s = ((s.env.chipAnswer .isr).1,
      { s with env := { (s.env.chipAnswer .isr).2 with nested := s.env.nested.tail }
               trace := s.trace ++ nestedEvents (irqGuard s) (s.env.nested.headD 0)
                 ++ [.chipR .isr (s.env.chipAnswer .isr).1]
               returned := if s.env.nested.headD 0 = 0 ∨ irqGuard s = none then s.returned else .unit }) := by
  simp only [pollCauses, State.preempt_eq, State.chipRead, Env.chipAnswer_withNested]

/-- With no preemption listed, the poll is the ISR read alone. -/
theorem pollCauses_quiet (h : s.env.nested = []) : pollCauses s = s.chipRead .isr := by
  unfold pollCauses State.preempt
  rw [h]

/-- The state past the guard, with the flag set, the window selected (R191, R192). -/
theorem irqEntry_eq :
    s.irqEntry = { s with inHandler := true, shadow := s.shadow.put .cr s.cfg.chipMap.crWindow0
                          trace := s.trace ++ [.chipW .cr s.cfg.chipMap.crWindow0] } := rfl

/-- The guard at P_IRQ of an open instance (R189). -/
theorem irqGuard_irqEntry (ho : s.isOpen = true) : irqGuard s.irqEntry = some .irqReentrant := by
  simp [irqGuard, irqEntry_eq, ho]

/-- A poll that finds no cause ends the loop (R190). -/
theorem serviceLoop_noCause (now : Tick) (k : Nat) (h : (s.env.chipAnswer .isr).1 = 0x00#8) :
    serviceLoop now k s = (pollCauses s).2 := by
  have hp : (pollCauses s).1 = 0x00#8 := by rw [pollCauses_eq]; exact h
  cases k <;> simp only [serviceLoop, hp, if_true]

/-- A poll that finds a cause, with budget left: one serviced iteration, then the rest of the loop (R187). -/
theorem serviceLoop_cause (now : Tick) (k : Nat) (h : (s.env.chipAnswer .isr).1 ≠ 0x00#8) :
    serviceLoop now (k + 1) s =
      (serviceRound now (s.env.chipAnswer .isr).1 (pollCauses s).2).andThen (serviceLoop now k) := by
  have hp : (pollCauses s).1 = (s.env.chipAnswer .isr).1 := by rw [pollCauses_eq]
  simp only [serviceLoop, hp, h, if_false]

/-- A poll that finds a cause with no budget left: the bulk acknowledgement (R194). -/
theorem serviceLoop_budget (now : Tick) (h : (s.env.chipAnswer .isr).1 ≠ 0x00#8) :
    serviceLoop now 0 s = bulkAck (s.env.chipAnswer .isr).1 (pollCauses s).2 := by
  have hp : (pollCauses s).1 = (s.env.chipAnswer .isr).1 := by rw [pollCauses_eq]
  simp only [serviceLoop, hp, h, if_false]

theorem State.andThen_of_none {s : State} {f : State → State} (h : s.fault = none) : s.andThen f = f s := by
  simp [State.andThen, h]

theorem State.andThen_of_fault {s : State} {f : State → State} (h : s.fault ≠ none) : s.andThen f = s := by
  have : s.fault.isSome = true := by cases hf : s.fault <;> simp_all
  simp [State.andThen, this]

/-- The acknowledgement of what was handled, then the re-arm (R185, R186). -/
theorem ackAndRearm_eq (v : Byte) :
    ackAndRearm v s =
      { s with shadow := (if v &&& handledCauses s.cfg.chipMap v = 0x00#8 then s.shadow
                          else s.shadow.put .isr (v &&& handledCauses s.cfg.chipMap v)).put .cr s.cfg.chipMap.crStart
               trace := s.trace ++ (if v &&& handledCauses s.cfg.chipMap v = 0x00#8 then []
                          else [.chipW .isr (v &&& handledCauses s.cfg.chipMap v)]) ++ [.chipW .cr s.cfg.chipMap.crStart] } := by
  unfold ackAndRearm
  dsimp only
  split <;> simp [State.chipWrite]

end Sys2Proof.Machine
end

