-- ==== Sys2Proof/Laws/PerInstr.lean ====
section
/-! SUPPORT. For every instruction: the fields of its word read back as R86 and R88 of 30_encoding.md lay them out. -/

namespace Sys2Proof.Laws

/-- The word of an instruction has the instruction's opcode, its operands in their fields, and zero elsewhere. -/
def EncodeFields.Statement (i : Instr) : Prop :=
  opField (encode i) = i.op.code ∧ stField (encode i) = i.stBit ∧ mdField (encode i) = i.mdBits
    ∧ reservedField (encode i) = 0#5 ∧ lenField (encode i) = i.lenBits

/-- The fields of any word laid out by the encoder. -/
theorem EncodeFields.of_layout (i : Instr) : EncodeFields.Statement i := by
  simp [EncodeFields.Statement, encode]

theorem EncodeFields.init (start : Bool) : EncodeFields.Statement (.init start) := EncodeFields.of_layout _
theorem EncodeFields.openInst : EncodeFields.Statement (.openInst) := EncodeFields.of_layout _
theorem EncodeFields.closeInst : EncodeFields.Statement (.closeInst) := EncodeFields.of_layout _
theorem EncodeFields.submit (len : Half) : EncodeFields.Statement (.submit len) := EncodeFields.of_layout _
theorem EncodeFields.setMulticast (md : BitVec 2) : EncodeFields.Statement (.setMulticast md) := EncodeFields.of_layout _
theorem EncodeFields.getStats : EncodeFields.Statement (.getStats) := EncodeFields.of_layout _
theorem EncodeFields.irq : EncodeFields.Statement (.irq) := EncodeFields.of_layout _
theorem EncodeFields.txCollision : EncodeFields.Statement (.txCollision) := EncodeFields.of_layout _
theorem EncodeFields.drain : EncodeFields.Statement (.drain) := EncodeFields.of_layout _
theorem EncodeFields.txDone : EncodeFields.Statement (.txDone) := EncodeFields.of_layout _
theorem EncodeFields.txError : EncodeFields.Statement (.txError) := EncodeFields.of_layout _
theorem EncodeFields.counterDrain : EncodeFields.Statement (.counterDrain) := EncodeFields.of_layout _
theorem EncodeFields.rdcAck : EncodeFields.Statement (.rdcAck) := EncodeFields.of_layout _
theorem EncodeFields.overrunRecover : EncodeFields.Statement (.overrunRecover) := EncodeFields.of_layout _
theorem EncodeFields.mcRebuild : EncodeFields.Statement (.mcRebuild) := EncodeFields.of_layout _
theorem EncodeFields.triggerSend : EncodeFields.Statement (.triggerSend) := EncodeFields.of_layout _
theorem EncodeFields.txTimeoutReset : EncodeFields.Statement (.txTimeoutReset) := EncodeFields.of_layout _

end Sys2Proof.Laws
end

