-- ==== Sys2Proof/Laws/Ring.lean ====
section
/-! SUPPORT. Ring arithmetic (00_scope.md R17): predecessor and successor stay in the ring and undo each other. -/

namespace Sys2Proof.Machine

variable {cfg : Cfg} {p : Byte}

theorem inRing_iff : inRing cfg p = true ↔ cfg.rxStartPage.toNat ≤ p.toNat ∧ p.toNat < cfg.stopPage.toNat := by
  simp [inRing]

/-- The successor of a page of the ring is in the ring. -/
theorem inRing_ringSucc (h : inRing cfg p = true) : inRing cfg (ringSucc cfg p) = true := by
  rw [inRing_iff] at *
  unfold ringSucc
  have := cfg.stopPage.isLt
  split
  · omega
  · rename_i hne
    have h1 : (p + 1).toNat ≠ cfg.stopPage.toNat := fun hc => hne (BitVec.eq_of_toNat_eq hc)
    rw [BitVec.toNat_add] at *
    simp at *
    omega

/-- The predecessor of a page of the ring is in the ring. -/
theorem inRing_ringPred (h : inRing cfg p = true) : inRing cfg (ringPred cfg p) = true := by
  rw [inRing_iff] at *
  unfold ringPred
  have := cfg.stopPage.isLt
  split
  · rw [BitVec.toNat_sub_of_le (by rw [BitVec.le_def]; simp; omega)]; simp; omega
  · rename_i hne
    have h1 : p.toNat ≠ cfg.rxStartPage.toNat := fun hc => hne (BitVec.eq_of_toNat_eq hc)
    rw [BitVec.toNat_sub_of_le (by rw [BitVec.le_def]; simp; omega)]; simp; omega

/-- The successor of the predecessor is the page itself. -/
theorem ringSucc_ringPred (h : inRing cfg p = true) : ringSucc cfg (ringPred cfg p) = p := by
  rw [inRing_iff] at h
  unfold ringSucc ringPred
  by_cases hp : p = cfg.rxStartPage
  · simp [hp]
  · simp only [hp, if_false, BitVec.sub_add_cancel]
    rw [if_neg]
    intro hc
    rw [hc] at h; omega

/-- The predecessor of the successor is the page itself. -/
theorem ringPred_ringSucc (h : inRing cfg p = true) : ringPred cfg (ringSucc cfg p) = p := by
  rw [inRing_iff] at h
  unfold ringSucc ringPred
  by_cases hp : p + 1 = cfg.stopPage
  · rw [if_pos hp, if_pos rfl, ← hp, BitVec.add_sub_cancel]
  · have hlt := cfg.stopPage.isLt
    rw [if_neg hp, if_neg, BitVec.add_sub_cancel]
    intro hc
    have h1 : (p + 1).toNat = cfg.rxStartPage.toNat := by rw [hc]
    rw [BitVec.toNat_add] at h1
    simp at h1
    omega

end Sys2Proof.Machine
end

