-- ==== Sys2Proof/Laws/Run.lean ====
section
/-! SUPPORT. What one operation can do, said once: a chain of small changes (`Micro`), with a bound on the events it appends
(70_reset_and_hazards.md R284). Whole-machine rules are proved once for the small changes and read off here for every
operation. -/

namespace Sys2Proof.Machine

/-- An event that is a register write. -/
def Event.isWrite : Event → Bool
  | .chipW _ _ => true
  | .chipR _ _ | .resetChip _ | .getHeader _ _ | .blockIn _ _ | .blockOut _ _ | .getBuffer _ _ | .wait _ | .log _
  | .result _ _ => false

/-- A register written for itself alone: not IMR, BNRY or a multicast register, whose writes follow a rule. -/
def plainReg (r : ChipReg) : Prop := r ≠ .imr ∧ r ≠ .bnry ∧ ∀ m, r ≠ .mar m

/-- The bookkeeping of `t` put into `s`: every field but the configuration, the ring pointer, the counters, the shadow, the
trace, the memory and the commands. -/
def State.bookOf (s t : State) : State :=
  { s with slot1 := t.slot1, slot2 := t.slot2, txing := t.txing, txqueue := t.txqueue, lasttx := t.lasttx
           transStart := t.transStart, mediaSelect := t.mediaSelect, inHandler := t.inHandler
           irqMasked := t.irqMasked, isOpen := t.isOpen, rxEnabled := t.rxEnabled, mcMode := t.mcMode
           mcList := t.mcList, fault := t.fault, delivered := t.delivered, returned := t.returned, env := t.env }

/-- One small change and how many events it appends. `w` says whether IMR may be written. -/
inductive Micro (w : Bool) : Nat → State → State → Prop
  | book {s t : State} (h : t = s.bookOf t) (hn : t.env.nested = s.env.nested)
      (hf : s.fault.isSome = true → t.fault.isSome = true) : Micro w 0 s t
  | emit (s : State) {e : Event} (h : e.isWrite = false) : Micro w 1 s (s.emit e)
  | write (s : State) {r : ChipReg} (v : Byte) (h : plainReg r) : Micro w 1 s (s.chipWrite r v)
  | imr (s : State) (v : Byte) (hw : w = true) (hv : v = s.cfg.chipMap.imrNone ∨ v = s.cfg.chipMap.imrAll) :
      Micro w 1 s (s.chipWrite .imr v)
  | rebuild (s : State) : Micro w 10 s (mcRebuild s)
  | init (start : Bool) (s : State) (hw : w = true) : Micro w 34 s (initialise start s)
  | release (s : State) (p : Byte) (hp : inRing s.cfg p = true) :
      Micro w 1 s ({ s with currentPage := some p }.chipWrite .bnry (ringPred s.cfg p))
  | count (s : State) (c : Counter) (n : Nat) : Micro w 0 s (s.count c n)
  | preempt (s : State) : Micro w 0 s s.preempt
  | load (s : State) (p : Byte) (bs : List Byte) : Micro w 0 s { s with mem := Memory.copyIn p s.mem 0 bs }

/-- A chain of small changes that appends at most `n` events, the guarded `IRQ` steps at preemption points apart. -/
inductive Run (w : Bool) : Nat → State → State → Prop
  | refl (n : Nat) (s : State) : Run w n s s
  | tail {n k b : Nat} {s t u : State} (h : Run w n s t) (m : Micro w k t u) (hb : n + k ≤ b) : Run w b s u

namespace Run

variable {w : Bool} {s t u : State}

theorem mono {n b : Nat} (h : Run w n s t) (hb : n ≤ b) : Run w b s t := by
  cases h with
  | refl => exact .refl _ _
  | tail h m hk => exact .tail h m (hk.trans hb)

theorem single {k : Nat} (m : Micro w k s t) : Run w k s t := .tail (.refl 0 s) m (by omega)

theorem trans {n k b : Nat} (h : Run w n s t) (h' : Run w k t u) (hb : n + k ≤ b) : Run w b s u := by
  induction h' generalizing b with
  | refl => exact h.mono (by omega)
  | tail _ m hk ih => exact .tail (ih h (Nat.le_refl _)) m (by omega)

theorem book (h : t = s.bookOf t) (hn : t.env.nested = s.env.nested := by rfl)
    (hf : s.fault.isSome = true → t.fault.isSome = true := by exact id) : Run w 0 s t := single (.book h hn hf)

theorem raise (s : State) (k : Fault) : Run w 0 s (s.raise k) := book rfl rfl (fun _ => rfl)

theorem emit (s : State) {e : Event} (h : e.isWrite = false := by rfl) : Run w 1 s (s.emit e) := single (.emit s h)

/-- Writes of plain registers. -/
theorem writes {s : State} {ws : List (ChipReg × Byte)} (h : ∀ x ∈ ws, plainReg x.1) :
    Run w ws.length s (s.chipWrites ws) := by
  induction ws generalizing s with
  | nil => exact .refl _ _
  | cons x rest ih =>
    obtain ⟨r, v⟩ := x
    exact (single (.write s v (h _ List.mem_cons_self))).trans
      (ih (fun y hy => h y (List.mem_cons_of_mem _ hy))) (by simp; omega)

theorem write (s : State) {r : ChipReg} (v : Byte) (h : plainReg r := by simp [plainReg]) : Run w 1 s (s.chipWrite r v) :=
  single (.write s v h)

theorem count (s : State) (c : Counter) (n : Nat) : Run w 0 s (s.count c n) := single (.count s c n)

theorem countIf (s : State) (b : Bool) (c : Counter) : Run w 0 s (s.countIf b c) := by
  cases b
  · exact .refl _ _
  · exact count s c 1

theorem chipRead (s : State) (r : ChipReg) : Run w 1 s (s.chipRead r).2 :=
  (book (s := s) (t := { s with env := (s.env.chipAnswer r).2 }) rfl (Env.chipAnswer_nested _ _)).trans (emit _) (by omega)

theorem getHeader (s : State) (p : Byte) : Run w 1 s (s.getHeader p).2 :=
  (book (s := s) (t := { s with env := (s.env.headerAnswer p).2 }) rfl (Env.headerAnswer_nested _ _)).trans (emit _) (by omega)

theorem getBuffer (s : State) (n : Nat) : Run w 1 s (s.getBuffer n).2 :=
  (book (s := s) (t := { s with env := (s.env.grantAnswer n).2 }) rfl (Env.grantAnswer_nested _ _)).trans (emit _) (by omega)

theorem blockIn (s : State) (n : Nat) (o : Half) : Run w 1 s (s.blockIn n o) :=
  (book (s := s) (t := { s with delivered := (s.blockIn n o).delivered, env := (s.blockIn n o).env }) rfl).trans
    (emit _) (by omega)

theorem blockOut (s : State) (n : Nat) (data : List Byte) (p : Byte) : Run w 1 s (s.blockOut n data p) := by
  have h1 : Run w 0 s { s with mem := Memory.copyIn p s.mem 0 (hostBytes data s.env.draws n) } := single (.load s p _)
  have h2 : Run w 0 { s with mem := Memory.copyIn p s.mem 0 (hostBytes data s.env.draws n) }
      { s with mem := Memory.copyIn p s.mem 0 (hostBytes data s.env.draws n)
               env := { s.env with draws := s.env.draws + 1 } } := book rfl
  exact (h1.trans h2 (Nat.le_refl _)).trans (emit _ (e := .blockOut n p)) (by omega)

theorem finish (s : State) (op : Op) (v : RetVal) : Run w 1 s (s.finish op v) :=
  (emit s).trans (book rfl) (by omega)

theorem returning (s : State) (v : RetVal) : Run w 0 s (s.returning v) := book rfl

theorem setStart (s : State) (now : Tick) : Run w 0 s { s with transStart := now } := book rfl

theorem setFlags (s : State) (o r : Bool) : Run w 0 s { s with isOpen := o, rxEnabled := r } := book rfl

theorem opened (s : State) : Run w 0 s { s with isOpen := true } := book rfl

theorem setFilter (s : State) (mode : McMode) (list : List MacAddr) :
    Run w 0 s { s with mcMode := mode, mcList := list } := book rfl

theorem setSlot (s : State) (i : Slot) (v : SlotState) : Run w 0 s (s.setSlot i v) := by
  cases i <;> exact book rfl

theorem andThen {f : State → State} {k : Nat} (s : State) (h : Run w k s (f s)) : Run w k s (s.andThen f) := by
  unfold State.andThen
  split
  · exact .refl _ _
  · exact h

end Run

open Run

variable {w : Bool} (s : State)

theorem resetChip_run : Run w 1 s s.resetChip := emit s
theorem log_run (k : LogKind) : Run w 1 s (s.log k) := emit s

/-! ### Transmit -/

theorem triggerSend_run (i : Slot) (len : Half) (now : Tick) : Run w 4 s (triggerSend i len now s) :=
  (writes (s := s) (ws := [(.tbcr0, lowByte len), (.tbcr1, highByte len), (.tpsr, slotPage s.cfg i),
    (.cr, s.cfg.chipMap.crTrans)]) (by simp [plainReg])).trans (book rfl) (by simp)

theorem retryMedia_run (isr : Byte) : Run w 0 s (retryMedia isr s) := by
  unfold retryMedia
  split
  · exact book rfl
  · exact .refl _ _

theorem txTimeoutReset_run (now : Tick) : Run true 37 s (txTimeoutReset now s) := by
  have h1 : Run true 1 s _ := chipRead s .isr
  have h2 := (h1.trans (log_run _ (.txTimeout (s.chipRead .isr).1)) (Nat.le_refl _)).trans
    (retryMedia_run _ (s.chipRead .isr).1) (Nat.le_refl _)
  have h3 := (h2.trans (resetChip_run _) (Nat.le_refl _)).trans (single (.init true _ rfl)) (Nat.le_refl _)
  exact h3.trans (setStart _ now) (by omega)

theorem txStats_run (tsr : Byte) (ncr : Nat) : Run w 0 s (txStats tsr ncr s) := by
  unfold txStats
  refine Run.trans (n := 0) (k := 0)
    (t := if hasBit tsr s.cfg.chipMap.tsrAbt then (s.count .collisions 16).count .txAbortedErrors 1
      else s.count .collisions ncr) ?_ ?_ (by omega)
  · split
    · exact (count s _ _).trans (count _ _ _) (by omega)
    · exact count s _ _
  · dsimp only
    generalize (if hasBit tsr s.cfg.chipMap.tsrAbt then (s.count .collisions 16).count .txAbortedErrors 1
      else s.count .collisions ncr) = t
    split
    · exact count t _ _
    · exact ((((count t _ _).trans (countIf _ _ _) (Nat.le_refl _)).trans (countIf _ _ _) (Nat.le_refl _)).trans
        (countIf _ _ _) (Nat.le_refl _)).trans (countIf _ _ _) (by omega)

theorem promote_run (done : Slot) (now : Tick) : Run w 4 s (promote done now s) := by
  unfold promote
  split
  · rename_i len _
    exact ((triggerSend_run s done.other len now).trans (setSlot _ _ _) (Nat.le_refl _)).trans (book rfl) (by omega)
  · exact (book rfl : Run w 0 s _).mono (by omega)

theorem retire_run (now : Tick) : Run w 5 s (retire now s) := by
  unfold retire
  split
  · exact (log_run s _).mono (by omega)
  · rename_i done _
    have h : Run w 1 s (checkLastTx done s) := by
      unfold checkLastTx
      split
      · exact .refl _ _
      · exact log_run s _
    exact (h.trans (setSlot _ _ _) (Nat.le_refl _)).trans (promote_run _ _ _) (by omega)

theorem txDone_run (now : Tick) : Run w 7 s (txDone now s) := by
  have h1 := (chipRead (w := w) s .tsr).trans (chipRead _ .ncr) (Nat.le_refl _)
  exact (h1.trans (retire_run _ now) (Nat.le_refl _)).trans (txStats_run _ _ _) (by omega)

theorem maskIrq_run : Run true 1 s s.maskIrq :=
  (single (.imr s _ rfl (.inl rfl))).trans (book rfl) (by omega)

theorem unmaskIrq_run : Run true 1 s s.unmaskIrq :=
  (single (.imr s _ rfl (.inr rfl))).trans (book rfl) (by omega)

theorem sendOrQueue_run (i : Slot) (len : Half) (now : Tick) : Run w 4 s (sendOrQueue i len now s) := by
  unfold sendOrQueue
  split
  · exact (book rfl : Run w 0 s _).mono (by omega)
  · exact ((triggerSend_run s i len now).trans (setSlot _ _ _) (Nat.le_refl _)).trans (book rfl) (by omega)

theorem loadSlot_run (len : Half) (res : SubmitResult) : Run true 7 s (loadSlot len res s) := by
  unfold loadSlot
  split
  · exact ((log_run s _).trans (unmaskIrq_run _) (Nat.le_refl _)).trans (finish _ _ _) (by omega)
  · rename_i i _
    exact ((((setSlot s i _).trans (blockOut _ _ _ _) (Nat.le_refl _)).trans (sendOrQueue_run _ i _ _)
      (Nat.le_refl _)).trans (unmaskIrq_run _) (Nat.le_refl _)).trans (finish _ _ _) (by omega)

theorem criticalSection_run (len : Half) (res : SubmitResult) : Run true 8 s (criticalSection len res s) :=
  ((maskIrq_run s).trans (single (.preempt _)) (Nat.le_refl _)).trans (loadSlot_run _ len res) (by omega)

theorem submitFrame_run (len : Half) : Run true 45 s (submitFrame len s) := by
  unfold submitFrame
  split
  · exact ((log_run s _).trans (finish _ _ _) (Nat.le_refl _)).mono (by omega)
  · split
    · split
      · exact (finish s _ _).mono (by omega)
      · exact (txTimeoutReset_run s _).trans (criticalSection_run _ _ _) (by omega)
    · exact (criticalSection_run s _ _).mono (by omega)

/-! ### Receive -/

theorem consistent_inRing {cfg : Cfg} {next : Byte} {computed : Int} (h : consistent cfg next computed = true) :
    inRing cfg next = true := (Bool.and_eq_true_iff.1 h).2

theorem handleFrame_run (rxing this : Byte) (hdr : Hdr) (hr : inRing s.cfg rxing = true) :
    Run w 3 s (handleFrame rxing this hdr s).st := by
  unfold handleFrame
  dsimp only
  split
  · exact (((single (.release s rxing hr)).trans (count _ _ _) (Nat.le_refl _)).trans (log_run _ _) (Nat.le_refl _)).mono
      (by omega)
  · rename_i hc
    have hn : inRing s.cfg hdr.next = true := consistent_inRing (by simpa using hc)
    split
    · exact (((count s _ _).trans (count _ _ _) (Nat.le_refl _)).trans (log_run _ _) (Nat.le_refl _)).trans
        (single (.release _ _ hn)) (by omega)
    · split
      · have hd : Run w 2 s (deliver this (payloadLen s.cfg hdr) s).2 ∧
            (deliver this (payloadLen s.cfg hdr) s).2.cfg = s.cfg := by
          unfold deliver
          dsimp only
          split
          · exact ⟨((getBuffer s _).trans (blockIn _ _ _) (Nat.le_refl _)).trans
              ((count _ _ _).trans (count _ _ _) (Nat.le_refl _)) (by omega), rfl⟩
          · exact ⟨((getBuffer s _).trans (count _ _ _) (Nat.le_refl _)).trans (log_run _ _) (by omega), rfl⟩
        exact hd.1.trans (single (.release _ _ (by rw [hd.2]; exact hn))) (by omega)
      · have hs : Run w 1 s (statusError hdr.status s) ∧ (statusError hdr.status s).cfg = s.cfg := by
          unfold statusError
          dsimp only
          refine ⟨((((count s _ _).trans (countIf _ _ _) (Nat.le_refl _)).trans (countIf _ _ _) (Nat.le_refl _)).trans
            (countIf _ _ _) (Nat.le_refl _)).trans (log_run _ _) (by omega), ?_⟩
          simp only [State.log_eq_emit, State.emit_cfg, State.countIf_cfg, State.count_cfg]
        exact (hs.1.trans (single (.release _ _ (by rw [hs.2]; exact hn))) (by omega))

theorem walkOne_run : Run w 5 s (walkOne s).st := by
  unfold walkOne
  dsimp only
  split
  · exact ((chipRead s .curr).trans (raise _ _) (Nat.le_refl _)).mono (by omega)
  · rename_i hr
    split
    · exact ((chipRead s .curr).trans (raise _ _) (Nat.le_refl _)).mono (by omega)
    · split
      · exact (chipRead s .curr).mono (by omega)
      · exact ((chipRead s .curr).trans (getHeader _ _) (Nat.le_refl _)).trans
          (handleFrame_run _ _ _ _ (by simpa using hr)) (by omega)

theorem walk_run (n : Nat) : Run w (5 * n) s (walk n s).2 := by
  induction n generalizing s with
  | zero => exact .refl _ _
  | succ n ih =>
    simp only [walk]
    split
    · exact (walkOne_run s).trans (ih _) (by omega)
    · exact (walkOne_run s).mono (by omega)

theorem drain_run : Run w (5 * s.cfg.maxRxIter) s (drain s).2 := walk_run s _

/-! ### Every operation keeps the configuration -/

theorem Micro.cfg_eq {k : Nat} {s t : State} (h : Micro w k s t) : t.cfg = s.cfg := by
  cases h with
  | book h => rw [h]; rfl
  | rebuild => rw [mcRebuild_eq]
  | init => rw [initialise_eq]
  | preempt => rw [State.preempt_eq]
  | _ => rfl

theorem Run.cfg_eq {k : Nat} {s t : State} (h : Run w k s t) : t.cfg = s.cfg := by
  induction h with
  | refl => rfl
  | tail _ m _ ih => rw [m.cfg_eq, ih]

/-- No operation clears a fault (10_state.md R45). -/
theorem Micro.fault_stays {k : Nat} {s t : State} (h : Micro w k s t) (hf : s.fault.isSome = true) :
    t.fault.isSome = true := by
  cases h with
  | book _ _ h => exact h hf
  | rebuild => rw [mcRebuild_eq]; exact hf
  | init => rw [initialise_eq]; exact hf
  | preempt => rw [State.preempt_eq]; exact hf
  | _ => exact hf

theorem Run.fault_stays {k : Nat} {s t : State} (h : Run w k s t) (hf : s.fault.isSome = true) :
    t.fault.isSome = true := by
  induction h with
  | refl => exact hf
  | tail _ m _ ih => exact m.fault_stays (ih hf)

/-! ### Overrun and the dispatcher -/

theorem overrunStop_run : Run w 5 s (overrunStop s).2 :=
  ((((count s _ _).trans (chipRead _ .cr) (Nat.le_refl _)).trans (write _ _) (Nat.le_refl _)).trans
    (emit _) (Nat.le_refl _)).trans (writes (by simp [plainReg])) (by simp)

theorem resendTest_run (b : Bool) : Run w 1 s (resendTest b s).2 := by
  cases b
  · exact .refl _ _
  · exact chipRead s .isr

theorem overrunRestart_run : Run w 2 s (overrunRestart s) :=
  writes (ws := [(.tcr, s.cfg.chipMap.tcrLoopback), (.cr, s.cfg.chipMap.crStart)]) (by simp [plainReg])

theorem overrunFinish_run (a b : Bool) : Run w 4 s (overrunFinish a b s) := by
  have h1 : Run w 2 s (s.chipWrites [(.isr, s.cfg.chipMap.isrOvw), (.tcr, s.cfg.chipMap.tcrNormal)]) :=
    writes (ws := [(.isr, s.cfg.chipMap.isrOvw), (.tcr, s.cfg.chipMap.tcrNormal)]) (by simp [plainReg])
  cases b
  · exact h1.trans (log_run _ _) (by omega)
  · exact (h1.trans (write _ _) (Nat.le_refl _)).trans (log_run _ _) (by omega)

theorem overrunRecover_run : Run w (12 + 5 * s.cfg.maxRxIter) s (overrunRecover s) := by
  have h1 := ((overrunStop_run (w := w) s).trans (resendTest_run _ (overrunStop s).1) (Nat.le_refl _)).trans
    (overrunRestart_run _) (Nat.le_refl _)
  refine (h1.trans (drain_run _) (Nat.le_refl _)).trans (Run.andThen _ (overrunFinish_run _ _ _)) ?_
  rw [h1.cfg_eq]; omega

theorem txError_run (now : Tick) : Run w 9 s (txError now s) := by
  unfold txError
  dsimp only
  split
  · exact ((chipRead s _).trans (log_run _ _) (Nat.le_refl _)).trans (txDone_run _ _) (by omega)
  · exact (((((chipRead s _).trans (log_run _ _) (Nat.le_refl _)).trans (count _ _ _) (Nat.le_refl _)).trans
      (countIf _ _ _) (Nat.le_refl _)).trans (countIf _ _ _) (Nat.le_refl _)).trans (countIf _ _ _) (by omega)

theorem foldCounter_run (r : ChipReg) (c : Counter) : Run w 1 s (foldCounter r c s) :=
  (chipRead s r).trans (count _ _ _) (by omega)

theorem counterDrain_run : Run w 3 s (counterDrain s) :=
  ((foldCounter_run s _ _).trans (foldCounter_run _ _ _) (Nat.le_refl _)).trans (foldCounter_run _ _ _) (by omega)

theorem routeReceive_run (v : Byte) : Run w (12 + 5 * s.cfg.maxRxIter) s (routeReceive v s) := by
  unfold routeReceive
  dsimp only
  split
  · exact overrunRecover_run s
  · split
    · exact (drain_run s).mono (by omega)
    · exact .refl _ _

theorem routeTransmit_run (v : Byte) (now : Tick) : Run w 9 s (routeTransmit v now s) := by
  unfold routeTransmit
  dsimp only
  split
  · exact (txDone_run s now).mono (by omega)
  · split
    · exact txError_run s now
    · exact .refl _ _

theorem routeCounters_run (v : Byte) : Run w 3 s (routeCounters v s) := by
  unfold routeCounters
  split
  · exact counterDrain_run s
  · exact .refl _ _

theorem routeRemote_run (v : Byte) : Run w 0 s (routeRemote v s) := by
  unfold routeRemote rdcAck
  split <;> exact .refl _ _

theorem ackAndRearm_run (v : Byte) : Run w 2 s (ackAndRearm v s) := by
  unfold ackAndRearm
  dsimp only
  refine Run.trans (n := 1) (k := 1) (t := if v &&& handledCauses s.cfg.chipMap v = 0x00#8 then s
    else s.chipWrite .isr (v &&& handledCauses s.cfg.chipMap v)) ?_ ?_ (by omega)
  · split
    · exact .refl _ _
    · exact write _ _
  · exact write _ _

theorem serviceRound_run (now : Tick) (v : Byte) : Run w (26 + 5 * s.cfg.maxRxIter) s (serviceRound now v s) := by
  refine (routeReceive_run s v).trans (k := 14) (Run.andThen _ ?_) (by omega)
  exact (((routeTransmit_run _ v now).trans (routeCounters_run _ v) (Nat.le_refl _)).trans (routeRemote_run _ v)
    (Nat.le_refl _)).trans (ackAndRearm_run _ v) (by omega)

theorem pollCauses_run : Run w 1 s (pollCauses s).2 :=
  (single (.preempt s)).trans (chipRead _ _) (by omega)

theorem serviceLoop_run (now : Tick) (k : Nat) :
    Run w (3 + k * (27 + 5 * s.cfg.maxRxIter)) s (serviceLoop now k s) := by
  induction k generalizing s with
  | zero =>
    simp only [serviceLoop]
    split
    · exact (pollCauses_run s).mono (by omega)
    · exact ((pollCauses_run s).trans (write _ _) (Nat.le_refl _)).trans (log_run _ _) (by omega)
  | succ k ih =>
    simp only [serviceLoop]
    split
    · exact (pollCauses_run s).mono (by omega)
    · have h1 := pollCauses_run (w := w) s
      have h2 := h1.trans (serviceRound_run (pollCauses s).2 now (pollCauses s).1) (Nat.le_refl _)
      refine h2.trans (Run.andThen _ (ih _)) ?_
      rw [h2.cfg_eq, h1.cfg_eq, Nat.add_mul]
      omega

theorem dispatchIrq_run (now : Tick) :
    Run w (5 + s.cfg.maxService * (27 + 5 * s.cfg.maxRxIter)) s (dispatchIrq now s) := by
  have h1 : Run w 1 s s.irqEntry := (book (t := { s with inHandler := true }) rfl).trans (write _ _) (by omega)
  have h2 := h1.trans (serviceLoop_run s.irqEntry now s.cfg.maxService) (Nat.le_refl _)
  refine h2.trans (k := 1) (Run.andThen _ ?_) (by rw [h1.cfg_eq]; omega)
  exact (book (t := { serviceLoop now s.cfg.maxService s.irqEntry with inHandler := false }) rfl).trans (finish _ _ _)
    (by omega)

/-! ### Every operation -/

/-- The operations that may write IMR (60_exceptions.md R243). -/
def masks (op : Op) : Bool :=
  match op with
  | .INIT | .OPEN | .CLOSE | .SUBMIT | .TX_TIMEOUT_RESET => true
  | .SET_MULTICAST | .GET_STATS | .IRQ | .TX_COLLISION | .DRAIN | .TX_DONE | .TX_ERROR | .COUNTER_DRAIN | .RDC_ACK
  | .OVERRUN_RECOVER | .MC_REBUILD | .TRIGGER_SEND => false

/-- What an operation that answers a next state did: a chain of small changes within its event bound. -/
theorem exec_run {i : Instr} {s t : State} (h : exec i s = .next t) : Run (masks i.op) (eventBound s.cfg i) s t := by
  cases i with
  | init start => cases h; exact (single (.init start s rfl)).trans (finish _ _ _) (Nat.le_refl _)
  | openInst =>
    cases h
    exact ((single (.init true s rfl)).trans (opened _) (Nat.le_refl _)).trans (finish _ _ _) (Nat.le_refl _)
  | closeInst =>
    cases h
    have h1 : Run true 1 s _ := single (.imr s s.cfg.chipMap.imrNone rfl (.inl rfl))
    have h2 := h1.trans (write (r := .cr) _ s.cfg.chipMap.crStop) (Nat.le_refl _)
    exact (h2.trans (setFlags _ false false) (Nat.le_refl _)).trans (finish _ _ _) (Nat.le_refl _)
  | submit len =>
    simp only [exec, execSubmit] at h
    split at h
    · cases h
    · cases h; exact submitFrame_run s len
  | setMulticast md =>
    simp only [exec, execSetMulticast] at h
    split at h
    · rename_i mode _
      cases h
      exact ((setFilter s mode s.operands.list).trans
        (single (.rebuild _)) (Nat.le_refl _)).trans (finish _ _ _) (Nat.le_refl _)
    · cases h
  | getStats => cases h; exact finish _ _ _
  | irq =>
    simp only [exec, execIrq] at h
    split at h
    · cases h
      exact ((log_run s _).trans (finish _ _ _) (Nat.le_refl _)).mono (by simp [eventBound]; omega)
    · cases h; exact dispatchIrq_run s _
  | txCollision =>
    simp only [exec, execTxCollision] at h
    split at h
    · rename_i i _
      cases h
      exact (writes (ws := [(.tpsr, slotPage s.cfg i), (.cr, s.cfg.chipMap.crTrans)]) (by simp [plainReg])).trans
        (finish _ _ _) (by simp [eventBound])
    · cases h
      exact ((log_run s _).trans (finish _ _ _) (Nat.le_refl _)).mono (by simp [eventBound])
  | drain => cases h; exact (drain_run s).trans (returning _ _) (by simp [eventBound])
  | txDone => cases h; exact (txDone_run s _).trans (returning _ _) (by simp [eventBound])
  | txError => cases h; exact (txError_run s _).trans (returning _ _) (by simp [eventBound])
  | counterDrain => cases h; exact (counterDrain_run s).trans (returning _ _) (by simp [eventBound])
  | rdcAck => cases h; exact returning _ _
  | overrunRecover => cases h; exact (overrunRecover_run s).trans (returning _ _) (by simp [eventBound])
  | mcRebuild => cases h; exact (single (.rebuild s)).trans (returning _ _) (by simp [eventBound])
  | triggerSend => cases h; exact (triggerSend_run s _ _ _).trans (returning _ _) (by simp [eventBound])
  | txTimeoutReset => cases h; exact (txTimeoutReset_run s _).trans (returning _ _) (by simp [eventBound])

end Sys2Proof.Machine
end

