-- ==== Sys2Proof/Laws/Step.lean ====
section
/-! SUPPORT. What a step can do, said once: nothing, or the operation of the next command. -/

namespace Sys2Proof.Machine

/-- The state in which the operation of the next command `c` runs. -/
def State.given (s : State) (c : Command) (rest : List Command) : State := { s with cmds := rest, operands := c.operands }

/-- What is fetched when a command waits. -/
theorem fetch_command {s : State} {c : Command} {rest : List Command} (ha : admitted s.cfg = true) (hc : s.cmds = c :: rest) :
    fetch s = match decode c.word with
      | .error _ => .error .illegalCommandWord
      | .ok i => if mayIssue c.issuer i.op s then .ok (some (i, s.given c rest)) else .error .internalOpcode := by
  unfold fetch
  simp only [ha, State.takeCommand, hc]
  rfl

/-- The step of a state in which a command waits. -/
theorem step_command {s : State} {c : Command} {rest : List Command} (hf : s.fault = none) (ha : admitted s.cfg = true)
    (hc : s.cmds = c :: rest) :
    step s = match decode c.word with
      | .error _ => .refused .illegalCommandWord
      | .ok i => if mayIssue c.issuer i.op s then exec i (s.given c rest) else .refused .internalOpcode := by
  unfold step
  rw [fetch_command ha hc]
  simp only [hf]
  cases decode c.word with
  | error e => rfl
  | ok i =>
    dsimp only
    cases mayIssue c.issuer i.op s <;> rfl

/-- A step that answers a next state changed nothing, for want of a command, or ran one operation of an admitted configuration. -/
theorem step_cases {s t : State} (h : step s = .next t) :
    t = s ∨ ∃ (i : Instr) (c : Command) (rest : List Command), admitted s.cfg = true ∧ s.fault = none
      ∧ mayIssue c.issuer i.op s = true ∧ exec i (s.given c rest) = .next t := by
  cases hf : s.fault with
  | some k => simp [step, hf] at h
  | none =>
    cases ha : admitted s.cfg with
    | false => simp [step, hf, fetch, ha] at h
    | true =>
      cases hc : s.cmds with
      | nil =>
        simp [step, hf, fetch, ha, State.takeCommand, hc] at h
        exact .inl h.symm
      | cons c rest =>
        rw [step_command hf ha hc] at h
        cases hd : decode c.word with
        | error e => simp [hd] at h
        | ok i =>
          simp only [hd] at h
          cases hm : mayIssue c.issuer i.op s with
          | false => simp [hm] at h
          | true => exact .inr ⟨i, c, rest, rfl, rfl, hm, by simpa [hm] using h⟩

/-- With no command waiting a step changes nothing, or is refused for the configuration. -/
theorem step_idle {s : State} (hf : s.fault = none) (hc : s.cmds = []) :
    step s = if admitted s.cfg then .next s else .refused .inadmissibleConfig := by
  unfold step fetch State.takeCommand
  cases ha : admitted s.cfg <;> simp [hf, hc]

/-- The end of a run (60_exceptions.md R275) in the state's own terms. -/
theorem endOfRun_iff (s : State) :
    EndOfRun s ↔ s.cmds = [] ∧ s.inHandler = false ∧ s.irqMasked = false ∧ s.fault = none ∧ admitted s.cfg = true := by
  constructor
  · rintro ⟨hc, hi, hm, hf, hr⟩
    refine ⟨hc, hi, hm, hf, ?_⟩
    by_contra ha
    exact hr .inadmissibleConfig (by rw [step_idle hf hc, if_neg ha])
  · rintro ⟨hc, hi, hm, hf, ha⟩
    exact ⟨hc, hi, hm, hf, fun r h => by rw [step_idle hf hc, if_pos ha] at h; cases h⟩

end Sys2Proof.Machine
end

