-- ==== Sys2Proof/Machine/Assembly.lean ====
section
/-! DEFINITION. The written form of commands: the pseudo-instructions and their expansions (30_encoding.md R93), and the line
syntax (R92). -/

namespace Sys2Proof.Machine

/-- The pseudo-instructions of R93. -/
inductive Pseudo where
  | reopen | setPromisc | setAllmulti | clearMulticast | quiesce
deriving DecidableEq, Repr

/-- Their expansions (R93). The three multicast ones take the empty list, which is the default side-band operand. -/
def Pseudo.expand : Pseudo → List Instr
  | .reopen => [.closeInst, .openInst]
  | .setPromisc => [.setMulticast 2#2]
  | .setAllmulti => [.setMulticast 1#2]
  | .clearMulticast => [.setMulticast 0#2]
  | .quiesce => [.init false]

/-- The commands of a pseudo-instruction, issued by the Host at tick `now`. -/
def Pseudo.commands (p : Pseudo) (now : Tick) : List Command :=
  p.expand.map fun i => { issuer := .host, word := encode i, operands := { now := now } }

/-- The mnemonic of R89. -/
def mnemonic : Op → String
  | .INIT => "INIT"
  | .OPEN => "OPEN"
  | .CLOSE => "CLOSE"
  | .SUBMIT => "SUBMIT"
  | .SET_MULTICAST => "SET_MULTICAST"
  | .GET_STATS => "GET_STATS"
  | .IRQ => "IRQ"
  | .TX_COLLISION => "TX_COLLISION"
  | .DRAIN => "DRAIN"
  | .TX_DONE => "TX_DONE"
  | .TX_ERROR => "TX_ERROR"
  | .COUNTER_DRAIN => "COUNTER_DRAIN"
  | .RDC_ACK => "RDC_ACK"
  | .OVERRUN_RECOVER => "OVERRUN_RECOVER"
  | .MC_REBUILD => "MC_REBUILD"
  | .TRIGGER_SEND => "TRIGGER_SEND"
  | .TX_TIMEOUT_RESET => "TX_TIMEOUT_RESET"

/-- The two lower-case hex digits of a byte. -/
def hexByte (b : Byte) : String :=
  String.ofList [Nat.digitChar (b.toNat / 16), Nat.digitChar (b.toNat % 16)]

/-- An address as `hh:hh:hh:hh:hh:hh` (R92). -/
def addrText (a : MacAddr) : String := ":".intercalate (a.toList.map hexByte)

/-- The name of a mode (R92). -/
def modeText (md : BitVec 2) : String :=
  match McMode.ofBits? md with
  | some .list => "list"
  | some .allMulti => "allmulti"
  | some .promisc => "promisc"
  | none => "reserved"

/-- The operands of a line before `now`, in the order of R89. `buf` names the host buffer. TRIGGER_SEND's two operands have no
written form in R92: `slot` and `length` are the model's names. -/
def operandTexts (i : Instr) (o : CmdOperands) (buf : String) : List String :=
  match i with
  | .init start => ["st=" ++ (if start then "1" else "0")]
  | .submit len => ["len=" ++ toString len.toNat, "data=" ++ buf]
  | .setMulticast md => ["md=" ++ modeText md, "list=[" ++ ", ".intercalate (o.list.map addrText) ++ "]"]
  | .triggerSend => ["slot=" ++ (match o.slot with | .one => "1" | .two => "2"), "length=" ++ toString o.length.toNat]
  | .openInst | .closeInst | .getStats | .irq | .txCollision | .drain | .txDone | .txError | .counterDrain | .rdcAck
  | .overrunRecover | .mcRebuild | .txTimeoutReset => []

/-- One operation as a line of R92. -/
def lineText (i : Instr) (o : CmdOperands) (buf : String) : String :=
  " ".intercalate ([mnemonic i.op] ++ operandTexts i o buf ++ ["now=" ++ toString o.now.toNat])

end Sys2Proof.Machine
end

