-- ==== Sys2Proof/Tests/Slice0.lean ====
section
/-! SUPPORT. The model's own tests. Every expected result is a row of spec/95_test_vectors.md or of another table of the spec, named
beside the test, none the model's own answer. Then one witness for each statement with hypotheses: a concrete state and operands
that meet them all, clause by clause, at the edges of their ranges. -/

namespace Sys2Proof.Tests

open Sys2Proof Sys2Proof.Machine

set_option Elab.async false

/-! ## Helpers -/

/-- The state after OPEN under K (95 B2.2), the trace so far left out. -/
def opened : State := { initialise true (State.attach Cfg.vectorK) with isOpen := true, trace := [] }

/-- The same under K1. -/
def opened1 : State := { initialise true (State.attach Cfg.vectorK1) with isOpen := true, trace := [] }

/-- The instruction completes, and its next state passes a check. -/
def runs (i : Instr) (s : State) (p : State → Bool) : Bool :=
  match exec i s with
  | .next t => p t
  | .fault _ | .refused _ => false

/-- The instruction is refused for this reason. -/
def refuses (i : Instr) (s : State) (r : Refusal) : Bool :=
  match exec i s with
  | .refused q => q == r
  | .next _ | .fault _ => false

/-- The step is refused for this reason. -/
def stepRefuses (s : State) (r : Refusal) : Bool :=
  match step s with
  | .refused q => q == r
  | .next _ | .fault _ => false

/-- The state with one command waiting. -/
def given (s : State) (iss : Issuer) (w : Word) : State := { s with cmds := [⟨iss, w, {}⟩] }

/-- Every counter. -/
def counters : List Counter :=
  [.rxPackets, .rxBytes, .rxErrors, .rxDropped, .rxLengthErrors, .rxFifoErrors, .rxFrameErrors, .rxCrcErrors,
   .rxMissedErrors, .rxOverErrors, .txPackets, .txErrors, .txAbortedErrors, .txCarrierErrors, .txFifoErrors,
   .txHeartbeatErrors, .txWindowErrors, .collisions]

/-- The counters that are not 0, with their values. -/
def counted (s : State) : List (Counter × Nat) :=
  (counters.map (fun c => (c, s.stats.get c))).filter (fun p => p.2 != 0)

/-- A state with a transmit of slot 1 in flight, as 95 B5 and B6 start. -/
def sending1 : State := { opened with slot1 := .sending, txing := true, lasttx := .startedBySubmit .one }

/-- Slot 1 in flight, slot 2 loaded behind it. -/
def sendingLoaded : State := { sending1 with slot2 := .loaded 60, txqueue := 1 }

/-- Slot 2 in flight, slot 1 loaded behind it (95 B5.11). -/
def loadedSending : State :=
  { opened with slot1 := .loaded 1514, slot2 := .sending, txing := true, txqueue := 1, lasttx := .startedByCompletion .two }

/-- Chip answers listed, in order. -/
def answering (s : State) (answers : List (ChipReg × Byte)) : State := { s with env := { s.env with chip := answers } }

/-- A DRAIN vector of 95 B4: `currentPage` and BNRY in step, one header there, CURR answered twice, a buffer granted. -/
def drainRow (this status next : Byte) (count : Half) (curr : Byte) : State :=
  { opened with
      currentPage := some this, inHandler := true
      shadow := opened.shadow.put .bnry (ringPred Cfg.vectorK this)
      env := { chip := [(.curr, curr), (.curr, curr)], headers := [(this, ⟨status, next, count⟩)]
               grants := [(count.toNat - 4, true)] } }

/-- The same with no buffer to be had (95 B4.19). -/
def drainRefused : State :=
  let s := drainRow 0x4C 0x01 0x4D 64 0x4D
  { s with env := { s.env with grants := [(60, false)] } }

/-! ## Well-formedness, decoding, encoding -/

theorem test_smoke_reserved_mode_ill_formed :
    (Instr.setMulticast 3#2).wellFormed = false ∧ decodeTableWord 32 0x605 = none := by decide

/-- One word per constructor, written from the fields of R86 and the map of R89: `len`, zeros, `md`, `st`, `op`. -/
theorem test_words_host :
    decodeTableWord 32 0b0000000000000000_00000_00_0_00000001 = some (.init false)
    ∧ decodeTableWord 32 0b0000000000000000_00000_00_1_00000001 = some (.init true)
    ∧ decodeTableWord 32 0b0000000000000000_00000_00_0_00000010 = some .openInst
    ∧ decodeTableWord 32 0b0000000000000000_00000_00_0_00000011 = some .closeInst
    ∧ decodeTableWord 32 0b0000010111101011_00000_00_0_00000100 = some (.submit 1515)
    ∧ decodeTableWord 32 0b0000000000000000_00000_00_0_00000101 = some (.setMulticast 0)
    ∧ decodeTableWord 32 0b0000000000000000_00000_01_0_00000101 = some (.setMulticast 1)
    ∧ decodeTableWord 32 0b0000000000000000_00000_10_0_00000101 = some (.setMulticast 2)
    ∧ decodeTableWord 32 0b0000000000000000_00000_00_0_00000110 = some .getStats := by decide

theorem test_words_irq_internal :
    decodeTableWord 32 0b0000000000000000_00000_00_0_00010000 = some .irq
    ∧ decodeTableWord 32 0b0000000000000000_00000_00_0_00010001 = some .txCollision
    ∧ decodeTableWord 32 0b0000000000000000_00000_00_0_00100000 = some .drain
    ∧ decodeTableWord 32 0b0000000000000000_00000_00_0_00100001 = some .txDone
    ∧ decodeTableWord 32 0b0000000000000000_00000_00_0_00100010 = some .txError
    ∧ decodeTableWord 32 0b0000000000000000_00000_00_0_00100011 = some .counterDrain
    ∧ decodeTableWord 32 0b0000000000000000_00000_00_0_00100100 = some .rdcAck
    ∧ decodeTableWord 32 0b0000000000000000_00000_00_0_00100101 = some .overrunRecover
    ∧ decodeTableWord 32 0b0000000000000000_00000_00_0_00100110 = some .mcRebuild
    ∧ decodeTableWord 32 0b0000000000000000_00000_00_0_00100111 = some .triggerSend
    ∧ decodeTableWord 32 0b0000000000000000_00000_00_0_00101000 = some .txTimeoutReset := by decide

/-- 95 B1, rows 13 and 17 to 24. -/
theorem test_illegal_words :
    ([0x605, 0x07, 0x12, 0x29, 0xFF, 0x102, 0x801, 0x10001, 0x105].map (decodeTableWord 32)).all (· == none) = true := by
  decide

/-- 95 B1, rows 25 to 27: an internal opcode is refused to the Host and to the IRQ agent, and runs for the harness. -/
theorem test_internal_issuers :
    stepRefuses (opened.withCommand ⟨.host, 0x20, {}⟩) .internalOpcode = true
    ∧ stepRefuses (opened.withCommand ⟨.irq, 0x21, {}⟩) .internalOpcode = true
    ∧ (match step (State.withFetchWord (answering opened [(.curr, 0x4C)]) 32 0x20) with
        | .next t => t.trace == [.chipR .curr 0x4C] && t.cmds == []
        | .fault _ | .refused _ => false) = true := by decide +kernel

/-- 10_state.md R41 and 30_encoding.md R94 to R103: each mask the engine tests or writes is the field of that name. -/
theorem test_masks_are_fields :
    let m := ChipMap.ns8390
    let at? (r : ChipReg) (name : String) : Option Byte := (m.fields.find? (fun f => f.reg == r && f.name == name)).map RegField.mask
    (["PRX", "PTX", "RXE", "TXE", "OVW", "CNT", "RDC", "RST"].map (at? .isr)
      = [m.isrPrx, m.isrPtx, m.isrRxe, m.isrTxe, m.isrOvw, m.isrCnt, m.isrRdc, m.isrRst].map some)
    ∧ (["PTX", "ND", "COL", "ABT", "CRS", "FU", "CDH", "OWC"].map (at? .tsr)
      = [m.tsrPtx, m.tsrNd, m.tsrCol, m.tsrAbt, m.tsrCrs, m.tsrFu, m.tsrCdh, m.tsrOwc].map some)
    ∧ at? .cr "TXP" = some m.crTxp ∧ at? .rcr "AB" = some m.rcrBase ∧ at? .rcr "AM" = some m.rcrAm
    ∧ at? .rcr "PRO" = some m.rcrPro ∧ at? .rcr "MON" = some m.rcrOff
    ∧ at? .ncr "collision count" = some m.ncrCount.mask := by decide +kernel

/-- R41, "reserved (write 0)": the values the engine writes to RCR, TCR, DCR and IMR have those bits clear, and the fields of each
register of the map share no bit. -/
theorem test_reserved_written_zero :
    let m := ChipMap.ns8390
    let reserved (r : ChipReg) : Byte := (m.fields.filter (fun f => f.reg == r && f.kind == .writeZero)).foldl (fun a f => a ||| f.mask) 0
    reserved .rcr = 0xC0 ∧ reserved .tcr = 0xE0 ∧ reserved .dcr = 0x80 ∧ reserved .imr = 0x80
    ∧ [m.rcrOff, m.rcrBase, m.rcrBase ||| m.rcrAm, m.rcrBase ||| m.rcrPro ||| m.rcrAm].all (fun v => v &&& 0xC0 == 0) = true
    ∧ [m.tcrLoopback, m.tcrNormal].all (fun v => v &&& 0xE0 == 0) = true
    ∧ [dcrDefault true, dcrDefault false].all (fun v => v &&& 0x80 == 0) = true
    ∧ [m.imrNone, m.imrAll].all (fun v => v &&& 0x80 == 0) = true
    ∧ m.fields.Pairwise (fun f g => f.reg = g.reg → f.mask &&& g.mask = 0) := by decide +kernel

/-- 60_exceptions.md R275: a run under K ends with its last command; one refused, or under a configuration that is not admitted, does
not. -/
theorem test_endOfRun :
    EndOfRun opened ∧ ¬ EndOfRun (given opened .host 0x07)
    ∧ ¬ EndOfRun { opened with cfg := { opened.cfg with maxService := 0 } } := by
  refine ⟨⟨by decide +kernel, by decide +kernel, by decide +kernel, by decide +kernel, fun r h => ?_⟩,
    fun h => absurd h.noCommand (by decide), fun h => ?_⟩
  · have hs : step opened = .next opened := by rfl
    rw [hs] at h; cases h
  · have hs : step { opened with cfg := { opened.cfg with maxService := 0 } } = .refused .inadmissibleConfig := by rfl
    exact h.noRefusal _ hs

/-- 60_exceptions.md R263: ticks that wrap once after a trigger meet the premise. -/
theorem test_clockMonotone_wraps_once : ClockMonotone [⟨0xFFFFFFF0, true⟩, ⟨0x10, false⟩, ⟨0x20, true⟩] := by
  refine ⟨[0xFFFFFFF0, 0x100000010, 0x100000020], by decide, by decide, ?_⟩
  intro i j ri ti tj hij _ _ _ hti htj
  have hj : j < 3 := (List.getElem?_eq_some_iff.mp htj).1
  interval_cases j <;> interval_cases i <;> (simp at hti htj; omega)

/-- R92's line syntax, on the addresses and modes it names. -/
theorem test_line_text :
    lineText (.setMulticast 0) { list := [#v[0x01, 0x00, 0x5E, 0x00, 0x00, 0x01]], now := 7 } "f0"
      = "SET_MULTICAST md=list list=[01:00:5e:00:00:01] now=7" := by decide +kernel

/-! ## Bring-up -/

/-- 95 B2.4. -/
theorem test_init_K1 :
    runs (.init false) (State.attach Cfg.vectorK1) (fun t =>
      t.currentPage == some 0x46 && t.shadow.get .bnry == some 0x7F && t.shadow.get .imr == some 0x00
        && t.shadow.get .rcr == some 0x20) = true := by decide +kernel

/-- 95 B2.3. -/
theorem test_init_events :
    runs (.init false) sendingLoaded (fun t =>
      t.trace.length == 30 && t.trace.getLast? == some (.result .INIT .unit) && t.slot1 == .free && t.slot2 == .free
        && !t.txing && t.txqueue == 0 && t.isOpen && !t.rxEnabled && t.lasttx == .startedBySubmit .one) = true := by
  decide +kernel

/-- 95 B2.2, its 35 events. -/
theorem test_open_trace :
    runs .openInst (State.attach Cfg.vectorK) (fun t => t.isOpen && t.rxEnabled && t.trace ==
      [ .chipW .cr 0x21, .chipW .dcr 0x48, .chipW .rbcr0 0x00, .chipW .rbcr1 0x00, .chipW .rcr 0x20, .chipW .tcr 0x02,
        .chipW .tpsr 0x40, .chipW .pstart 0x4C, .chipW .bnry 0x7F, .chipW .pstop 0x80, .chipW .isr 0xFF, .chipW .imr 0x00,
        .chipW (.par 0) 0x00, .chipW (.par 1) 0x00, .chipW (.par 2) 0xC0, .chipW (.par 3) 0x12, .chipW (.par 4) 0x34,
        .chipW (.par 5) 0x56, .chipW .curr 0x4C, .chipW .rcr 0x20, .chipW (.mar 0) 0x00, .chipW (.mar 1) 0x00,
        .chipW (.mar 2) 0x00, .chipW (.mar 3) 0x00, .chipW (.mar 4) 0x00, .chipW (.mar 5) 0x00, .chipW (.mar 6) 0x00,
        .chipW (.mar 7) 0x00, .chipW .rcr 0x20, .chipW .isr 0xFF, .chipW .imr 0x3F, .chipW .cr 0x22, .chipW .tcr 0x00,
        .chipW .rcr 0x04, .result .OPEN .unit ]) = true := by decide +kernel

/-- 95 B2.5. -/
theorem test_close_trace :
    runs .closeInst sending1 (fun t => t.trace == [.chipW .imr 0x00, .chipW .cr 0x21, .result .CLOSE .unit]
      && !t.isOpen && !t.rxEnabled && t.currentPage == some 0x4C && t.slot1 == .sending && t.txing) = true := by
  decide +kernel

/-- 95 B2.7. -/
theorem test_getStats_attach :
    runs .getStats (State.attach Cfg.vectorK) (fun t => t.trace == [.result .GET_STATS (.stats {})]) = true := by
  decide +kernel

/-! ## Multicast -/

/-- 45_multicast.md R236. -/
theorem test_crc_byte :
    mcCrcByte 0xFFFFFFFF 0x01 = 0x27045F5A ∧ mcCrcByte 0xFFFFFFFF 0x00 = 0x4E08BFB4 := by decide +kernel

/-- 45_multicast.md R237 and 95 B7.2. -/
theorem test_crc_addresses :
    mcCrc #v[0x01, 0x00, 0x5E, 0x00, 0x00, 0x01] = 0x7FA32D9B ∧ mcIndex #v[0x01, 0x00, 0x5E, 0x00, 0x00, 0x01] = 31
    ∧ mcCrc #v[0x01, 0x00, 0x5E, 0x7F, 0xFF, 0xFA] = 0xAE3C4AFC ∧ mcIndex #v[0x01, 0x00, 0x5E, 0x7F, 0xFF, 0xFA] = 43
    ∧ mcCrc #v[0xFF, 0xFF, 0xFF, 0xFF, 0xFF, 0xFF] = 0xFF48647D ∧ mcIndex #v[0xFF, 0xFF, 0xFF, 0xFF, 0xFF, 0xFF] = 63
    ∧ mcCrc #v[0x00, 0x00, 0xC0, 0x12, 0x34, 0x56] = 0x4E030F78 ∧ mcIndex #v[0x00, 0x00, 0xC0, 0x12, 0x34, 0x56] = 19 := by
  decide +kernel

/-- 95 B7.10: eight addresses. -/
theorem test_table_eight :
    mcTable .list [ #v[0x01, 0x00, 0x5E, 0x00, 0x00, 0x01], #v[0x01, 0x00, 0x5E, 0x00, 0x00, 0x02],
        #v[0x01, 0x00, 0x5E, 0x00, 0x00, 0xFB], #v[0x01, 0x00, 0x5E, 0x7F, 0xFF, 0xFA], #v[0x33, 0x33, 0x00, 0x00, 0x00, 0x01],
        #v[0x33, 0x33, 0xFF, 0x00, 0x00, 0x01], #v[0x01, 0x80, 0xC2, 0x00, 0x00, 0x00], #v[0x09, 0x00, 0x2B, 0x00, 0x00, 0x04] ]
      = #v[0x00, 0x81, 0x08, 0xA2, 0x00, 0x08, 0x00, 0x40] := by decide +kernel

/-- 95 B7.12. -/
theorem test_setMulticast_promisc :
    runs (.setMulticast 2) opened (fun t => t.trace ==
      [ .chipW .rcr 0x20, .chipW (.mar 0) 0xFF, .chipW (.mar 1) 0xFF, .chipW (.mar 2) 0xFF, .chipW (.mar 3) 0xFF,
        .chipW (.mar 4) 0xFF, .chipW (.mar 5) 0xFF, .chipW (.mar 6) 0xFF, .chipW (.mar 7) 0xFF, .chipW .rcr 0x1C,
        .result .SET_MULTICAST .unit ]) = true := by decide +kernel

/-- 95 B7.7, B7.13 and B1.13: all-multicast on an open and on a closed instance, and the reserved mode. -/
theorem test_setMulticast_modes :
    runs (.setMulticast 1) opened (fun t => t.shadow.get .rcr == some 0x0C) = true
    ∧ runs (.setMulticast 1) (State.attach Cfg.vectorK) (fun t => t.shadow.get .rcr == some 0x20) = true
    ∧ refuses (.setMulticast 3) opened .illegalCommandWord = true := by decide +kernel

/-- 95 B7.4. -/
theorem test_mcRebuild_table :
    runs .mcRebuild { opened with mcList := [#v[0x01, 0x00, 0x5E, 0x00, 0x00, 0x01], #v[0x01, 0x00, 0x5E, 0x00, 0x00, 0xFB]] }
      (fun t => t.returned == .table #v[0x00, 0x80, 0x00, 0x80, 0x00, 0x00, 0x00, 0x00] && t.shadow.get (.mar 3) == some 0x80
        && t.shadow.get .rcr == some 0x0C) = true := by decide +kernel

/-! ## Transmit -/

/-- 95 B3.16. -/
theorem test_triggerSend_slot2 :
    runs .triggerSend { opened with operands := { slot := .two, length := 60, now := 9 } } (fun t =>
      t.trace == [.chipW .tbcr0 0x3C, .chipW .tbcr1 0x00, .chipW .tpsr 0x46, .chipW .cr 0x26] && t.transStart == 9) = true := by
  decide +kernel

/-- 95 B3.5 (padded), B3.7 (the longest), B3.2 (queued), B3.8 (refused). -/
theorem test_submit_lengths :
    runs (.submit 0) opened (fun t => t.trace ==
      [ .chipW .imr 0x00, .blockOut 0 0x40, .chipW .tbcr0 0x3C, .chipW .tbcr1 0x00, .chipW .tpsr 0x40, .chipW .cr 0x26,
        .chipW .imr 0x3F, .result .SUBMIT (.submit .queued) ]) = true
    ∧ runs (.submit 1514) opened (fun t => t.trace ==
      [ .chipW .imr 0x00, .blockOut 1514 0x40, .chipW .tbcr0 0xEA, .chipW .tbcr1 0x05, .chipW .tpsr 0x40, .chipW .cr 0x26,
        .chipW .imr 0x3F, .result .SUBMIT (.submit .queued) ] && t.slot1 == .sending) = true
    ∧ runs (.submit 1514) { sending1 with transStart := 1, operands := { now := 2 } } (fun t => t.trace ==
      [ .chipW .imr 0x00, .blockOut 1514 0x46, .chipW .imr 0x3F, .result .SUBMIT (.submit .queued) ]
        && t.slot2 == .loaded 1514 && t.txqueue == 1 && t.transStart == 1) = true
    ∧ refuses (.submit 1515) opened .oversizeFrame = true := by decide +kernel

/-- 95 B3.15, and B3.4 (the elapsed time wraps). -/
theorem test_submit_timeout :
    runs (.submit 80) { (answering sendingLoaded [(.isr, 0x00)]) with operands := { now := 100 } } (fun t =>
      t.trace.take 3 == [.chipR .isr 0x00, .log (.txTimeout 0x00), .resetChip 1] && t.trace.length == 45
        && t.trace.drop 37 == [ .chipW .imr 0x00, .blockOut 80 0x40, .chipW .tbcr0 0x50, .chipW .tbcr1 0x00, .chipW .tpsr 0x40,
             .chipW .cr 0x26, .chipW .imr 0x3F, .result .SUBMIT (.submit .retransmitting) ]
        && t.slot1 == .sending && t.slot2 == .free && t.txqueue == 0 && t.transStart == 100 && t.mediaSelect == 1) = true
    ∧ runs (.submit 60) { sendingLoaded with transStart := 0xFFFFFFF0, operands := { now := 0x10 } } (fun t =>
      t.trace == [.result .SUBMIT (.submit .busy)]) = true := by decide +kernel

/-- 95 B3.13 and B3.14: no toggle when ISR is not 0, or when a packet was sent before. -/
theorem test_txTimeoutReset_media :
    runs .txTimeoutReset (answering sending1 [(.isr, 0x02)]) (fun t =>
      t.trace.take 3 == [.chipR .isr 0x02, .log (.txTimeout 0x02), .resetChip 0] && t.mediaSelect == 0) = true
    ∧ runs .txTimeoutReset { (answering sending1 [(.isr, 0x00)]) with stats := { txPackets := 5 } } (fun t =>
      t.trace.take 3 == [.chipR .isr 0x00, .log (.txTimeout 0x00), .resetChip 0] && t.trace.length == 37) = true := by
  decide +kernel

/-- 95 B5.2, B5.4, B5.5, B5.7: what each status counts. -/
theorem test_txDone_counts :
    runs .txDone (answering sending1 [(.tsr, 0x01), (.ncr, 0x13)]) (fun t =>
      counted t == [(.txPackets, 1), (.collisions, 3)] && t.slot1 == .free && !t.txing && t.lasttx == .idleAfter .one) = true
    ∧ runs .txDone (answering sending1 [(.tsr, 0x08), (.ncr, 0x00)]) (fun t =>
      counted t == [(.txErrors, 1), (.txAbortedErrors, 1), (.collisions, 16)]) = true
    ∧ runs .txDone (answering sending1 [(.tsr, 0x20), (.ncr, 0x00)]) (fun t =>
      counted t == [(.txErrors, 1), (.txFifoErrors, 1)]) = true
    ∧ runs .txDone (answering sending1 [(.tsr, 0xC0), (.ncr, 0x00)]) (fun t =>
      counted t == [(.txErrors, 1), (.txHeartbeatErrors, 1), (.txWindowErrors, 1)]) = true := by decide +kernel

/-- 95 B5.8, B5.9, B5.11: no slot in flight, a mismatched marker, a promotion of slot 1. -/
theorem test_txDone_slots :
    runs .txDone (answering opened [(.tsr, 0x01), (.ncr, 0x00)]) (fun t =>
      t.trace == [.chipR .tsr 0x01, .chipR .ncr 0x00, .log (.unexpectedTxDone .none)] && t.lasttx == .none) = true
    ∧ runs .txDone { (answering sending1 [(.tsr, 0x01), (.ncr, 0x00)]) with lasttx := .idleAfter .two } (fun t =>
      t.trace == [.chipR .tsr 0x01, .chipR .ncr 0x00, .log (.bogusLastTx (.idleAfter .two) .one)]) = true
    ∧ runs .txDone { (answering loadedSending [(.tsr, 0x01), (.ncr, 0x00)]) with operands := { now := 7 } } (fun t =>
      t.trace == [ .chipR .tsr 0x01, .chipR .ncr 0x00, .chipW .tbcr0 0xEA, .chipW .tbcr1 0x05, .chipW .tpsr 0x40,
                   .chipW .cr 0x26 ]
        && t.slot1 == .sending && t.slot2 == .free && t.txqueue == 0 && t.lasttx == .startedByCompletion .one
        && t.transStart == 7) = true := by decide +kernel

/-- 95 B5.13 and B5.15. -/
theorem test_txCollision :
    runs .txCollision { opened with slot2 := .sending, txing := true } (fun t =>
      t.trace == [.chipW .tpsr 0x46, .chipW .cr 0x26, .result .TX_COLLISION .unit] && t.slot2 == .sending) = true
    ∧ runs .txCollision { sending1 with isOpen := false } (fun t =>
      t.trace == [.log .collisionWhileIdle, .result .TX_COLLISION .unit]) = true := by decide +kernel

/-! ## Receive -/

/-- Where DRAIN leaves the ring and what it counts. -/
def drains (s : State) (page bnry : Byte) (got : Nat) (stats : List (Counter × Nat)) : Bool :=
  runs .drain s fun t =>
    t.currentPage == some page && t.shadow.get .bnry == some bnry && t.returned == .delivered got && counted t == stats

/-- 95 B4, rows 2 to 4, 7, 9, 11 to 15, 19, 24 and 25. -/
theorem test_drain_rows :
    drains (drainRow 0x4C 0x01 0x4D 64 0x4D) 0x4D 0x4C 1 [(.rxPackets, 1), (.rxBytes, 60)] = true
    ∧ drains (drainRow 0x4C 0x01 0x52 1522 0x52) 0x52 0x51 1 [(.rxPackets, 1), (.rxBytes, 1518)] = true
    ∧ drains (drainRow 0x4C 0x01 0x52 1523 0x52) 0x52 0x51 0 [(.rxErrors, 1), (.rxLengthErrors, 1)] = true
    ∧ drains (drainRow 0x4C 0x01 0x4F 64 0x60) 0x60 0x5F 0 [(.rxErrors, 1)] = true
    ∧ drains (drainRow 0x7F 0x01 0x4D 300 0x4D) 0x4D 0x4C 1 [(.rxPackets, 1), (.rxBytes, 296)] = true
    ∧ drains (drainRow 0x4C 0x01 0x19 64 0x55) 0x55 0x54 0 [(.rxErrors, 1)] = true
    ∧ drains (drainRow 0x7F 0x01 0x4C 64 0x4C) 0x4C 0x7F 1 [(.rxPackets, 1), (.rxBytes, 60)] = true
    ∧ drains (drainRow 0x7F 0x01 0x4C 300 0x4E) 0x4E 0x4D 0 [(.rxErrors, 1)] = true
    ∧ drains (drainRow 0x4C 0x03 0x4D 64 0x4D) 0x4D 0x4C 0 [(.rxErrors, 1), (.rxCrcErrors, 1)] = true
    ∧ drains (drainRow 0x4C 0x0E 0x4D 64 0x4D) 0x4D 0x4C 0
        [(.rxErrors, 1), (.rxFifoErrors, 1), (.rxFrameErrors, 1), (.rxCrcErrors, 1)] = true
    ∧ drains drainRefused 0x4D 0x4C 0 [(.rxDropped, 1)] = true
    ∧ drains (drainRow 0x4C 0x01 0x4D 261 0x60) 0x60 0x5F 0 [(.rxErrors, 1)] = true
    ∧ drains (drainRow 0x4C 0x01 0x4D 0 0x4D) 0x4D 0x4C 0 [(.rxErrors, 1), (.rxLengthErrors, 1)] = true := by decide +kernel

/-- 95 B4.26: two frames; B4.20: CURR outside the ring. -/
theorem test_drain_two_frames_and_fault :
    runs .drain { opened with env := { chip := [(.curr, 0x50), (.curr, 0x50), (.curr, 0x50)]
                                       headers := [(0x4C, ⟨0x01, 0x4E, 300⟩), (0x4E, ⟨0x01, 0x50, 300⟩)]
                                       grants := [(296, true), (296, true)] } } (fun t => t.returned == .delivered 2 && t.trace ==
      [ .chipR .curr 0x50, .getHeader 0x4C ⟨0x01, 0x4E, 300⟩, .getBuffer 296 true, .blockIn 296 0x4C04, .chipW .bnry 0x4D,
        .chipR .curr 0x50, .getHeader 0x4E ⟨0x01, 0x50, 300⟩, .getBuffer 296 true, .blockIn 296 0x4E04, .chipW .bnry 0x4F,
        .chipR .curr 0x50 ]) = true
    ∧ runs .drain (answering opened [(.curr, 0x80)]) (fun t =>
      t.trace == [.chipR .curr 0x80] && t.fault == some .currOutOfRing) = true := by decide +kernel

/-! ## Interrupts -/

/-- 95 B6.12: PTX first, TXE left for the next iteration. -/
theorem test_irq_ptx_then_txe :
    runs .irq (answering sending1 [(.isr, 0x0A), (.tsr, 0x01), (.ncr, 0x00), (.isr, 0x08), (.tsr, 0x02), (.isr, 0x00)])
      (fun t => t.trace ==
        [ .chipW .cr 0x20, .chipR .isr 0x0A, .chipR .tsr 0x01, .chipR .ncr 0x00, .chipW .isr 0x02, .chipW .cr 0x22,
          .chipR .isr 0x08, .chipR .tsr 0x02, .log (.txErrorClass 0x02), .chipW .isr 0x08, .chipW .cr 0x22,
          .chipR .isr 0x00, .result .IRQ .unit ]
        && counted t == [(.txPackets, 1), (.txErrors, 1)] && !t.inHandler) = true := by decide +kernel

/-- 95 B6.13, every cause at once. -/
theorem test_irq_all_causes :
    runs .irq (answering sending1 [ (.isr, 0x3F), (.cr, 0x22), (.curr, 0x4C), (.tsr, 0x01), (.ncr, 0x00), (.cntr0, 0x00),
        (.cntr1, 0x00), (.cntr2, 0x00), (.isr, 0x00) ])
      (fun t => t.trace.length == 22 && t.trace.drop 13 ==
        [ .chipR .tsr 0x01, .chipR .ncr 0x00, .chipR .cntr0 0x00, .chipR .cntr1 0x00, .chipR .cntr2 0x00, .chipW .isr 0x27,
          .chipW .cr 0x22, .chipR .isr 0x00, .result .IRQ .unit ]
        && counted t == [(.rxOverErrors, 1), (.txPackets, 1)]) = true := by decide +kernel

/-- 95 B6.21, TSR = 0x48 and 0x10. -/
theorem test_txError_classes :
    runs .txError (answering sending1 [(.tsr, 0x48), (.tsr, 0x48), (.ncr, 0x00)]) (fun t =>
      t.trace == [.chipR .tsr 0x48, .log (.txErrorClass 0x48), .chipR .tsr 0x48, .chipR .ncr 0x00] && t.slot1 == .free
        && counted t == [(.txErrors, 1), (.txAbortedErrors, 1), (.txHeartbeatErrors, 1), (.collisions, 16)]) = true
    ∧ runs .txError (answering sending1 [(.tsr, 0x10)]) (fun t =>
      t.trace == [.chipR .tsr 0x10, .log (.txErrorClass 0x10)] && t.slot1 == .sending
        && counted t == [(.txErrors, 1), (.txCarrierErrors, 1)]) = true := by decide +kernel

/-- 95 B6.10. -/
theorem test_counterDrain :
    runs .counterDrain (answering opened [(.cntr0, 0x03), (.cntr1, 0x00), (.cntr2, 0xFF)]) (fun t =>
      t.trace == [.chipR .cntr0 0x03, .chipR .cntr1 0x00, .chipR .cntr2 0xFF]
        && counted t == [(.rxFrameErrors, 3), (.rxMissedErrors, 255)]) = true := by decide +kernel

/-- 95 B6.8: RDC_ACK adds no event. -/
theorem test_rdcAck : runs .rdcAck opened (fun t => t == opened) = true := by decide +kernel

/-- 95 B6.17: the resend, its 13 events. -/
theorem test_overrunRecover_resend :
    runs .overrunRecover (answering sending1 [(.cr, 0x26), (.isr, 0x10), (.curr, 0x4C)]) (fun t => t.trace ==
      [ .chipR .cr 0x26, .chipW .cr 0x21, .wait Cfg.vectorK.overrunWaitMin, .chipW .rbcr0 0x00, .chipW .rbcr1 0x00, .chipR .isr 0x10, .chipW .tcr 0x02,
        .chipW .cr 0x22, .chipR .curr 0x4C, .chipW .isr 0x10, .chipW .tcr 0x00, .chipW .cr 0x26, .log (.overrun true true) ]
      && t.slot1 == .sending && counted t == [(.rxOverErrors, 1)]) = true := by decide +kernel

/-- 95 B6.19: TXE has been posted, so nothing is sent again; B6.16: no transmit, so ISR is not read. -/
theorem test_overrunRecover_no_resend :
    runs .overrunRecover (answering sending1 [(.cr, 0x26), (.isr, 0x18), (.curr, 0x4C)]) (fun t =>
      t.trace.drop 10 == [.chipW .tcr 0x00, .log (.overrun true false)]) = true
    ∧ runs .overrunRecover (answering opened [(.cr, 0x22), (.curr, 0x4C)]) (fun t =>
      t.trace.length == 11 && t.trace.drop 5 == [ .chipW .tcr 0x02, .chipW .cr 0x22, .chipR .curr 0x4C, .chipW .isr 0x10,
        .chipW .tcr 0x00, .log (.overrun false false) ]) = true := by decide +kernel

/-! ## Witnesses: states and operands that meet the hypotheses of each statement -/

/-- A configuration with two slots and a ring of exactly two pages, the transmit region ending where the ring begins. -/
def tightCfg : Cfg := { Cfg.vectorK with rxStartPage := 0x4C, stopPage := 0x4E, wrapTol := defaultWrapTol 2 }

/-- The premise `internalCall` holds. -/
def inside : State := { opened with inHandler := true }

theorem witness_DecodeEncodeAgree :
    (Instr.submit 0xFFFF).wellFormed = true ∧ (Instr.setMulticast 2).wellFormed = true
    ∧ (match decode 0xFFFF0004 with | .ok i => i == .submit 0xFFFF | .error _ => false) = true := by decide

/-- The reserved opcodes at the six ends of their ranges, and a state with a command of each illegal kind and of a legal kind. -/
theorem witness_IllegalWordsRefused :
    (opField 0x07).toNat = 0x07 ∧ (opField 0x0F).toNat = 0x0F ∧ (opField 0x12).toNat = 0x12 ∧ (opField 0x1F).toNat = 0x1F
    ∧ (opField 0x29).toNat = 0x29 ∧ (opField 0xFF).toNat = 0xFF
    ∧ opened.fault = none ∧ admitted opened.cfg = true
    ∧ (given opened .host 0x07).cmds = [⟨.host, 0x07, {}⟩] ∧ (∀ op : Op, op.code ≠ opField 0x07)
    ∧ reservedField 0x801 ≠ 0#5
    ∧ (stField 0x102 = true ∧ opField 0x102 ≠ 0x01#8)
    ∧ (mdField 0x201 ≠ 0#2 ∧ opField 0x201 ≠ 0x05#8)
    ∧ (lenField 0x10001 ≠ 0#16 ∧ opField 0x10001 ≠ 0x04#8)
    ∧ mdField 0x605 = 3#2
    ∧ (Issuer.host ≠ .harness ∧ ∃ op : Op, op.code = opField 0x20 ∧ op.cls = .internal)
    ∧ ¬ ((∀ op : Op, op.code ≠ opField 0x04) ∨ reservedField 0x04 ≠ 0#5 ∨ (stField 0x04 = true ∧ opField 0x04 ≠ 0x01#8)
        ∨ (mdField 0x04 ≠ 0#2 ∧ opField 0x04 ≠ 0x05#8) ∨ (lenField 0x04 ≠ 0#16 ∧ opField 0x04 ≠ 0x04#8)
        ∨ mdField 0x04 = 3#2
        ∨ (Issuer.host ≠ .harness ∧ ∃ op : Op, op.code = opField 0x04 ∧ op.cls = .internal)) := by
  refine ⟨by decide, by decide, by decide, by decide, by decide, by decide, by decide +kernel, by decide +kernel, by decide +kernel,
    fun op => by cases op <;> decide, by decide, by decide, by decide, by decide, by decide, ⟨by decide, .DRAIN, by decide, rfl⟩, ?_⟩
  rintro (h | h | h | h | h | h | ⟨-, op, h, hi⟩)
  · exact h .SUBMIT (by decide)
  · exact h (by decide)
  · exact absurd h.1 (by decide)
  · exact h.1 (by decide)
  · exact h.1 (by decide)
  · exact absurd h (by decide)
  · cases op <;> revert h hi <;> decide

/-- The premise, and each of its three parts failing alone. -/
theorem witness_InternalCallPremise :
    (given inside .harness 0x20).fault = none ∧ admitted (given inside .harness 0x20).cfg = true
    ∧ (given inside .harness 0x20).cmds = [⟨.harness, 0x20, {}⟩] ∧ decode 0x20 = .ok .drain ∧ Instr.drain.op.cls = .internal
    ∧ (inside.isOpen = true ∧ inside.inHandler = true ∧ inside.irqMasked = false)
    ∧ { inside with isOpen := false }.isOpen = false ∧ opened.inHandler = false
    ∧ { inside with irqMasked := true }.irqMasked = true :=
  ⟨by decide +kernel, by decide +kernel, by decide +kernel, rfl, rfl, by decide +kernel, rfl, by decide +kernel, rfl⟩

theorem witness_StepRunsDecodedCommand :
    (given opened .irq 0x10).fault = none ∧ admitted (given opened .irq 0x10).cfg = true
    ∧ (given opened .irq 0x10).cmds = [⟨.irq, 0x10, {}⟩] ∧ decode 0x10 = .ok .irq
    ∧ mayIssue .irq Instr.irq.op (given opened .irq 0x10) = true
    ∧ mayIssue .harness Instr.drain.op (given inside .harness 0x20) = true :=
  ⟨by decide +kernel, by decide +kernel, by decide +kernel, rfl, rfl, by decide +kernel⟩

theorem witness_FaultIsFinal :
    (opened.raise .unsetState).fault = some .unsetState ∧ (opened.raise .unsetState).fault ≠ none
    ∧ (∃ t, exec .rdcAck (opened.raise .unsetState) = .next t) ∧ ∃ t, exec (.init true) opened = .next t :=
  ⟨rfl, by decide, ⟨_, rfl⟩, ⟨_, rfl⟩⟩

/-- An admitted configuration at the edges (a ring of two pages, the transmit region up to the ring), and four that are not: a ring
of one page, a transmit region one page into the ring, a transmit region past page 255, a slot too small for a frame. -/
theorem witness_InadmissibleConfigRefused :
    (State.attach tightCfg).fault = none ∧ admitted tightCfg = true
    ∧ admitted { tightCfg with stopPage := 0x4D } = false ∧ admitted { tightCfg with txStartPage := 0x41 } = false
    ∧ admitted { tightCfg with txStartPage := 0xF5 } = false ∧ admitted { tightCfg with txStartPage := 0xF4 } = true
    ∧ admitted { tightCfg with ethFrameLen := 1537 } = false ∧ admitted { tightCfg with ethFrameLen := 1536 } = true := by
  decide +kernel

/-- CURR at both ends of the ring. -/
theorem witness_AttachValues :
    let s := State.attach Cfg.vectorK
    1 ≤ s.cfg.maxRxIter ∧ s.currentPage = none
    ∧ inRing s.cfg ((answering s [(.curr, 0x4C)]).env.chipAnswer .curr).1 = true
    ∧ inRing s.cfg ((answering s [(.curr, 0x7F)]).env.chipAnswer .curr).1 = true := by decide +kernel

theorem slotInv_sendingLoaded : SlotInv sendingLoaded :=
  ⟨by decide +kernel, by decide +kernel, by decide +kernel, by decide +kernel, by decide +kernel⟩

theorem slotInv_opened : SlotInv opened :=
  ⟨by decide +kernel, by decide +kernel, by decide +kernel, by decide +kernel, by decide +kernel⟩

theorem countersFit_of_zero (s : State) (h : s.stats = {}) : CountersFit s := by
  intro c; rw [h]; cases c <;> exact Nat.two_pow_pos _

theorem ringInv_opened : RingInv opened := by
  have hp : opened.currentPage = some 0x4C := by decide +kernel
  refine ⟨fun _ => by rw [hp]; rfl, fun p h => ?_, fun p h => ?_⟩ <;>
    (rw [hp] at h; cases h; decide +kernel)

/-- A full transmit pair before a completion; an open idle instance before a SUBMIT. -/
theorem witness_StepKeepsSlotInvariants :
    SlotInv sendingLoaded ∧ SlotInv (State.attach Cfg.vectorK) ∧ ∃ t, step (given sendingLoaded .irq 0x11) = .next t :=
  ⟨slotInv_sendingLoaded, ⟨by decide, by decide, by decide, by decide, by decide⟩, ⟨_, rfl⟩⟩

theorem witness_StepKeepsRingInvariant : RingInv opened ∧ ∃ t, step (given opened .host 0x03) = .next t :=
  ⟨ringInv_opened, ⟨_, rfl⟩⟩

/-- Counters at their largest value, and a memory with bytes at both ends of the address space. -/
theorem witness_StepKeepsCountersAndMemory :
    let s : State := { opened with stats := { rxBytes := 2 ^ 32 - 1 }, mem := [(0, 0x11), (65535, 0x22)] }
    CountersFit s ∧ Memory.wf s.mem ∧ ∃ t, step (given s .host 0x03) = .next t := by
  refine ⟨?_, by decide, ⟨_, rfl⟩⟩
  intro c; cases c <;> decide +kernel

theorem witness_StepKeepsShadowTheLastWrite :
    let s := State.attach Cfg.vectorK
    (∀ r : ChipReg, s.shadow.get r = lastWrite r none s.trace) ∧ ∃ t, step (given s .host 0x02) = .next t :=
  ⟨fun r => by simp [State.attach, Shadow.get, lastWrite, Vector.get], ⟨_, rfl⟩⟩

/-- One next state for each kind of operation: bring-up, multicast (it writes MAR), transmit, receive, dispatcher, recovery. -/
theorem witness_EventsBounded :
    (∃ t, exec (.init true) opened = .next t) ∧ (∃ t, exec (.setMulticast 1) opened = .next t)
    ∧ (∃ t, exec (.submit 1514) opened = .next t) ∧ (∃ t, exec .drain opened = .next t) ∧ (∃ t, exec .irq opened = .next t)
    ∧ ∃ t, exec .overrunRecover opened = .next t :=
  ⟨⟨_, rfl⟩, ⟨_, rfl⟩, ⟨_, rfl⟩, ⟨_, rfl⟩, ⟨_, rfl⟩, ⟨_, rfl⟩⟩

theorem witness_MulticastWrittenWithReceiveOff :
    runs .mcRebuild opened (fun t => t.trace == opened.trace ++ t.trace && t.trace.any Event.isMarWrite) = true := by decide +kernel

theorem witness_InterruptMaskWriters :
    runs .closeInst opened (fun t => t.trace == opened.trace ++ t.trace && t.trace.contains (.chipW .imr 0x00)) = true
    ∧ runs (.submit 60) opened (fun t => t.trace == opened.trace ++ t.trace && t.trace.contains (.chipW .imr 0x3F)) = true := by
  decide +kernel

/-- TX_COLLISION is in none of the lists of writers, and each list shuts out some operation that completes. -/
theorem witness_FieldWriters :
    (∃ t, exec .txCollision opened = .next t) ∧ (∃ t, exec .closeInst opened = .next t)
    ∧ Instr.txCollision.op ∉ [Op.OPEN, Op.CLOSE]
    ∧ Instr.txCollision.op ∉ [Op.INIT, Op.OPEN, Op.CLOSE, Op.SUBMIT, Op.TX_TIMEOUT_RESET]
    ∧ Instr.txCollision.op ∉ [Op.INIT, Op.OPEN, Op.SUBMIT, Op.SET_MULTICAST, Op.MC_REBUILD, Op.TX_TIMEOUT_RESET]
    ∧ Instr.txCollision.op ∉ [Op.DRAIN, Op.OVERRUN_RECOVER, Op.IRQ]
    ∧ Instr.txCollision.op ≠ Op.SET_MULTICAST ∧ Instr.txCollision.op ≠ Op.SUBMIT :=
  ⟨⟨_, rfl⟩, ⟨_, rfl⟩, by decide, by decide, by decide, by decide, by decide, by decide⟩

/-- A next state whose log shows `lasttx`, and a refusal. -/
theorem witness_LastTxReachesOnlyLogs :
    (∃ t, exec .txDone opened = .next t) ∧ exec (.setMulticast 3) opened = .refused .illegalCommandWord := ⟨⟨_, rfl⟩, rfl⟩

theorem witness_OpenShadow : (State.attach Cfg.vectorK).mcMode = .list ∧ (State.attach Cfg.vectorK).mcList = [] := ⟨rfl, rfl⟩

/-- The two addresses of 95 B7.4. -/
def groupA : MacAddr := #v[0x01, 0x00, 0x5E, 0x00, 0x00, 0x01]
def groupB : MacAddr := #v[0x01, 0x00, 0x5E, 0x00, 0x00, 0xFB]

theorem witness_TableDependsOnTheSet : ∀ x : MacAddr, x ∈ [groupA, groupB, groupA] ↔ x ∈ [groupB, groupA] := by
  intro x
  simp only [List.mem_cons, List.not_mem_nil, or_false]
  tauto

theorem witness_SetMulticastResult :
    ((0#2 : BitVec 2) = 0#2 ∧ McMode.list = .list) ∧ ((1#2 : BitVec 2) = 1#2 ∧ McMode.allMulti = .allMulti)
    ∧ ((2#2 : BitVec 2) = 2#2 ∧ McMode.promisc = .promisc) := by decide

/-- 1515 and 1514 and 0 bytes, on an open idle instance. -/
theorem witness_SubmitLengthAdmission :
    opened.cfg.ethFrameLen < (1515#16).toNat ∧ (1514#16).toNat ≤ opened.cfg.ethFrameLen ∧ (0#16).toNat ≤ opened.cfg.ethFrameLen
    ∧ opened.isOpen = true ∧ opened.busy = false ∧ opened.txing = false ∧ opened.cfg.ethZlen = 60 := by decide +kernel

/-- A closed instance; a busy one, 99 ticks after the last trigger of a timeout of 100. -/
theorem witness_SubmitTurnedAway :
    (1514#16).toNat ≤ opened.cfg.ethFrameLen ∧ (State.attach Cfg.vectorK).isOpen = false
    ∧ (let s : State := { sendingLoaded with transStart := 10, operands := { now := 109 } }
       s.isOpen = true ∧ s.busy = true ∧ (s.operands.now - s.transStart).toNat = 99 ∧ s.cfg.txTimeout = 100) := by decide +kernel

/-- Slot 1 free; slot 1 taken and slot 2 free. -/
theorem witness_SubmitSends :
    (1514#16).toNat ≤ opened.cfg.ethFrameLen ∧ opened.isOpen = true ∧ opened.txing = false ∧ opened.slot1 = .free
    ∧ (let s : State := { opened with slot1 := .loaded 60 }
       s.isOpen = true ∧ s.txing = false ∧ s.slot1 ≠ .free ∧ s.cfg.numTxSlots = .two ∧ s.slot2 = .free) := by decide +kernel

theorem witness_SubmitQueues :
    (0#16).toNat ≤ opened.cfg.ethFrameLen
    ∧ (sending1.isOpen = true ∧ sending1.txing = true ∧ sending1.slot1 ≠ .free ∧ sending1.cfg.numTxSlots = .two
        ∧ sending1.slot2 = .free)
    ∧ (let s : State := { opened with slot2 := .sending, txing := true }
       s.isOpen = true ∧ s.txing = true ∧ s.slot1 = .free) := by decide +kernel

/-- 100 ticks after the last trigger, with two slots and with one. -/
theorem witness_SubmitAfterTimeout :
    let s : State := { sendingLoaded with transStart := 10, operands := { now := 110 } }
    let u : State := { opened1 with slot1 := .sending, txing := true, transStart := 10, operands := { now := 110 } }
    (1514#16).toNat ≤ s.cfg.ethFrameLen ∧ s.isOpen = true ∧ s.busy = true ∧ s.cfg.txTimeout = (s.operands.now - s.transStart).toNat
    ∧ u.isOpen = true ∧ u.busy = true ∧ u.cfg.txTimeout ≤ (u.operands.now - u.transStart).toNat := by decide +kernel

theorem free_not_loaded (s : State) (i : Slot) (h : s.slot i.other = .free) :
    ∀ len, ¬ (i.other.exists s.cfg = true ∧ s.slot i.other = .loaded len) :=
  fun len g => by rw [h] at g; cases g.2

/-- Slot 2 in flight, slot 1 free. -/
def sending2 : State := { opened with slot2 := .sending, txing := true, lasttx := .startedBySubmit .two }

theorem witness_TxDoneGoesIdle :
    (CountersFit sending1 ∧ sending1.slot1 = .sending
      ∧ ∀ len, ¬ (Slot.one.other.exists sending1.cfg = true ∧ sending1.slot Slot.one.other = .loaded len))
    ∧ (CountersFit sending2 ∧ (sending2.slot1 ≠ .sending ∧ sending2.cfg.numTxSlots = .two ∧ sending2.slot2 = .sending)
      ∧ ∀ len, ¬ (Slot.two.other.exists sending2.cfg = true ∧ sending2.slot Slot.two.other = .loaded len)) :=
  ⟨⟨countersFit_of_zero _ (by decide +kernel), by decide +kernel, free_not_loaded _ .one (by decide +kernel)⟩,
   ⟨countersFit_of_zero _ (by decide +kernel), by decide +kernel, free_not_loaded _ .two (by decide +kernel)⟩⟩

theorem witness_TxDonePromotes :
    (CountersFit sendingLoaded ∧ sendingLoaded.slot1 = .sending ∧ sendingLoaded.cfg.numTxSlots = .two
      ∧ sendingLoaded.slot Slot.one.other = .loaded 60)
    ∧ (CountersFit loadedSending ∧ (loadedSending.slot1 ≠ .sending ∧ loadedSending.slot2 = .sending)
      ∧ loadedSending.cfg.numTxSlots = .two ∧ loadedSending.slot Slot.two.other = .loaded 1514) :=
  ⟨⟨countersFit_of_zero _ (by decide +kernel), by decide +kernel⟩, ⟨countersFit_of_zero _ (by decide +kernel), by decide +kernel⟩⟩

/-- Two slots idle; one slot, whatever the absent one holds. -/
theorem witness_TxDoneUnexpected :
    (CountersFit opened ∧ opened.slot1 ≠ .sending ∧ (opened.cfg.numTxSlots = .two → opened.slot2 ≠ .sending))
    ∧ (CountersFit opened1 ∧ opened1.slot1 ≠ .sending ∧ (opened1.cfg.numTxSlots = .two → opened1.slot2 ≠ .sending)) :=
  ⟨⟨countersFit_of_zero _ (by decide +kernel), by decide +kernel⟩, ⟨countersFit_of_zero _ (by decide +kernel), by decide +kernel⟩⟩

theorem witness_SubmitTxDoneRoundTrip :
    let s := answering opened [(.tsr, 0x01), (.ncr, 0x00)]
    (1514#16).toNat ≤ s.cfg.ethFrameLen ∧ s.isOpen = true ∧ s.busy = false ∧ s.txing = false ∧ SlotInv s ∧ CountersFit s
    ∧ runs (.submit 1514) s (fun t => hasBit (t.env.chipAnswer .tsr).1 t.cfg.chipMap.tsrPtx) = true :=
  ⟨by decide +kernel, by decide +kernel, by decide +kernel, by decide +kernel,
   ⟨by decide +kernel, by decide +kernel, by decide +kernel, by decide +kernel, by decide +kernel⟩,
   countersFit_of_zero _ (by decide +kernel), by decide +kernel⟩

theorem witness_TxCollisionResult :
    (sending1.isOpen = true ∧ sending1.txing = true ∧ sending1.slot1 = .sending)
    ∧ (sending2.isOpen = true ∧ sending2.txing = true ∧ sending2.slot1 ≠ .sending ∧ sending2.cfg.numTxSlots = .two
        ∧ sending2.slot2 = .sending)
    ∧ { sending1 with isOpen := false }.isOpen = false ∧ opened.txing = false
    ∧ (opened.slot1 ≠ .sending ∧ (opened.cfg.numTxSlots = .two → opened.slot2 ≠ .sending)) := by decide +kernel

theorem witness_NextFrameRoundsUp : Cfg.vectorK.nextFrameFn = .doc := by decide

/-- The ring empty at its first and at its last page. -/
theorem witness_DrainEmptyRing :
    let s := answering opened [(.curr, 0x4C)]
    let u := answering { opened with currentPage := some 0x7F } [(.curr, 0x7F)]
    (1 ≤ s.cfg.maxRxIter ∧ s.currentPage = some 0x4C ∧ inRing s.cfg 0x4C = true ∧ (s.env.chipAnswer .curr).1 = 0x4C)
    ∧ (1 ≤ u.cfg.maxRxIter ∧ u.currentPage = some 0x7F ∧ inRing u.cfg 0x7F = true ∧ (u.env.chipAnswer .curr).1 = 0x7F) := by
  decide +kernel

/-- CURR one page below and one above the ring (95 B4.20, B4.21), and an unset `currentPage`. -/
theorem witness_DrainFaults :
    1 ≤ opened.cfg.maxRxIter
    ∧ inRing opened.cfg ((answering opened [(.curr, 0x4B)]).env.chipAnswer .curr).1 = false
    ∧ inRing opened.cfg ((answering opened [(.curr, 0x80)]).env.chipAnswer .curr).1 = false
    ∧ (let s := answering (State.attach Cfg.vectorK) [(.curr, 0x4C)]
       inRing s.cfg (s.env.chipAnswer .curr).1 = true ∧ s.currentPage = none) := by decide +kernel

/-- The premises DRAIN's one-frame statements share, of a state made by `drainRow`. -/
def frameThere (s : State) (this : Byte) : Bool :=
  let curr := (s.env.chipAnswer .curr).1
  let hdr := ((s.env.chipAnswer .curr).2.headerAnswer this).1
  decide (2 ≤ s.cfg.maxRxIter ∧ s.currentPage = some this ∧ inRing s.cfg curr = true ∧ curr ≠ this
    ∧ (∃ d ∈ s.cfg.wrapTol, (hdr.next.toNat : Int) = nextFrame s.cfg this hdr.count + d) ∧ inRing s.cfg hdr.next = true)

/-- The payload length the header waiting there gives. -/
def frameLen (s : State) (this : Byte) : Int :=
  (((s.env.chipAnswer .curr).2.headerAnswer this).1.count.toNat : Int) - (s.cfg.hdrLen : Int)

/-- The header waiting there has a good status. -/
def frameGood (s : State) (this : Byte) : Bool :=
  rxOk s.cfg.chipMap ((s.env.chipAnswer .curr).2.headerAnswer this).1.status

/-- 60 and 1518 bytes with a buffer, 60 with none, the ring empty after each; the wrapped frame of 95 B4.9. -/
theorem witness_DrainOneGoodFrame :
    (let s := drainRow 0x4C 0x01 0x4D 64 0x4D
     let e := ((s.env.chipAnswer .curr).2.headerAnswer 0x4C).2.grantAnswer 60
     frameThere s 0x4C = true ∧ frameLen s 0x4C = 60 ∧ frameGood s 0x4C = true ∧ e.1 = true
       ∧ (({ e.2 with draws := e.2.draws + 1 } : Env).chipAnswer .curr).1 = 0x4D)
    ∧ (let s := drainRow 0x4C 0x01 0x52 1522 0x52
       let e := ((s.env.chipAnswer .curr).2.headerAnswer 0x4C).2.grantAnswer 1518
       frameThere s 0x4C = true ∧ frameLen s 0x4C = 1518 ∧ frameGood s 0x4C = true ∧ e.1 = true
         ∧ (({ e.2 with draws := e.2.draws + 1 } : Env).chipAnswer .curr).1 = 0x52)
    ∧ (let s := drainRow 0x7F 0x01 0x4D 300 0x4D
       frameThere s 0x7F = true ∧ frameLen s 0x7F = 296 ∧ frameGood s 0x7F = true)
    ∧ (let e := ((drainRefused.env.chipAnswer .curr).2.headerAnswer 0x4C).2.grantAnswer 60
       frameThere drainRefused 0x4C = true ∧ frameLen drainRefused 0x4C = 60 ∧ frameGood drainRefused 0x4C = true
         ∧ e.1 = false ∧ (e.2.chipAnswer .curr).1 = 0x4D) := by decide +kernel

/-- 59 and 1519 bytes; 60 bytes with a CRC error. -/
theorem witness_DrainOneBadFrame :
    (let s := drainRow 0x4C 0x01 0x4D 63 0x4D
     frameThere s 0x4C = true ∧ frameLen s 0x4C = 59
       ∧ (((s.env.chipAnswer .curr).2.headerAnswer 0x4C).2.chipAnswer .curr).1 = 0x4D)
    ∧ (let s := drainRow 0x4C 0x01 0x52 1523 0x52
       frameThere s 0x4C = true ∧ frameLen s 0x4C = 1519
         ∧ (((s.env.chipAnswer .curr).2.headerAnswer 0x4C).2.chipAnswer .curr).1 = 0x52)
    ∧ (let s := drainRow 0x4C 0x03 0x4D 64 0x4D
       frameThere s 0x4C = true ∧ frameLen s 0x4C = 60 ∧ frameGood s 0x4C = false
         ∧ (((s.env.chipAnswer .curr).2.headerAnswer 0x4C).2.chipAnswer .curr).1 = 0x4D) := by decide +kernel

/-- A next page two past the computed one (95 B4.7), and one within the tolerance but outside the ring (B4.11). -/
theorem witness_DrainResyncs :
    (let s := drainRow 0x4C 0x01 0x4F 64 0x60
     2 ≤ s.cfg.maxRxIter ∧ s.currentPage = some 0x4C ∧ inRing s.cfg (s.env.chipAnswer .curr).1 = true
       ∧ (s.env.chipAnswer .curr).1 ≠ 0x4C
       ∧ (∀ d ∈ s.cfg.wrapTol, ((0x4F#8).toNat : Int) ≠ nextFrame s.cfg 0x4C 64 + d)
       ∧ (((s.env.chipAnswer .curr).2.headerAnswer 0x4C).2.chipAnswer .curr).1 = (s.env.chipAnswer .curr).1)
    ∧ (let s := drainRow 0x4C 0x01 0x19 64 0x55
       inRing s.cfg ((s.env.chipAnswer .curr).2.headerAnswer 0x4C).1.next = false
       ∧ (((s.env.chipAnswer .curr).2.headerAnswer 0x4C).2.chipAnswer .curr).1 = (s.env.chipAnswer .curr).1) := by decide +kernel

theorem witness_DrainLeavesBoundaryOneBehind :
    RingInv opened ∧ opened.currentPage ≠ none ∧ ∃ t, exec .drain opened = .next t :=
  ⟨ringInv_opened, by decide +kernel, ⟨_, rfl⟩⟩

/-! ### Interrupts -/

theorem witness_IrqGuards :
    (State.attach Cfg.vectorK).isOpen = false ∧ (inside.isOpen = true ∧ inside.inHandler = true)
    ∧ (let s : State := { opened with irqMasked := true }
       s.isOpen = true ∧ s.inHandler = false ∧ s.irqMasked = true) := by decide +kernel

theorem witness_IrqWithoutCause :
    let s := answering opened [(.isr, 0x00)]
    s.fault = none ∧ s.isOpen = true ∧ s.inHandler = false ∧ s.irqMasked = false ∧ (s.env.chipAnswer .isr).1 = 0x00#8 := by
  decide +kernel

/-- PTX with TXE (95 B6.12), every cause, OVW alone, and RST alone, with no handler's fault before the next read; a nested `IRQ`
landing at the first read and two at the second. -/
theorem witness_IrqServicesOneRound :
    let s (v : Byte) : State :=
      let t := answering sending1 [ (.isr, v), (.cr, 0x22), (.curr, 0x4C), (.tsr, 0x01), (.ncr, 0x00), (.cntr0, 0x00),
        (.cntr1, 0x00), (.cntr2, 0x00), (.isr, 0x00) ]
      { t with env := { t.env with nested := [1, 2] } }
    (∀ v ∈ [0x0A#8, 0xFF#8, 0x10#8, 0x80#8], (s v).fault = none ∧ (s v).isOpen = true ∧ (s v).inHandler = false
      ∧ (s v).irqMasked = false ∧ 1 ≤ (s v).cfg.maxService ∧ ((s v).env.chipAnswer .isr).1 ≠ 0x00#8)
    ∧ runs .irq (s 0xFF) (fun t => t.fault == none && t.env.nested == [] && t.trace.getLast? == some (.result .IRQ .unit)) = true
    ∧ runs .irq (answering opened [(.isr, 0x01), (.curr, 0x80)]) (fun t => t.fault != none) = true := by decide +kernel

theorem witness_IrqBudgetExhausted :
    let s := answering opened (List.replicate 13 (.isr, 0x80))
    s.cfg.chipMap = ChipMap.ns8390 ∧ s.isOpen = true ∧ s.inHandler = false ∧ s.irqMasked = false ∧ s.fault = none
    ∧ s.env.nested = [] ∧ s.env.listed .isr = List.replicate (s.cfg.maxService + 1) 0x80#8 := by decide +kernel

/-- Past the guard without and with a fault of a handler, and turned away. -/
theorem witness_IrqExitClearsFlag :
    (opened.fault = none ∧ opened.isOpen = true ∧ opened.inHandler = false ∧ opened.irqMasked = false)
    ∧ runs .irq (answering opened [(.isr, 0x00)]) (fun t => t.fault == none) = true
    ∧ runs .irq (answering opened [(.isr, 0x01), (.curr, 0x80)]) (fun t => t.fault != none && t.inHandler) = true
    ∧ (inside.isOpen = false ∨ inside.inHandler = true ∨ inside.irqMasked = true) := by decide +kernel

theorem witness_TxErrorResult :
    hasBit ((answering sending1 [(.tsr, 0x20)]).env.chipAnswer .tsr).1 (sending1.cfg.chipMap.tsrAbt ||| sending1.cfg.chipMap.tsrFu)
      = true
    ∧ hasBit ((answering sending1 [(.tsr, 0xD7)]).env.chipAnswer .tsr).1
        (sending1.cfg.chipMap.tsrAbt ||| sending1.cfg.chipMap.tsrFu) = false := by decide +kernel

theorem witness_SixteenCollisionsAbort :
    (let s := answering sending1 [(.tsr, 0x08), (.tsr, 0x08)]
     s.cfg.chipMap = ChipMap.ns8390 ∧ CountersFit s ∧ s.slot1 = .sending
       ∧ (∀ len, ¬ (Slot.one.other.exists s.cfg = true ∧ s.slot Slot.one.other = .loaded len))
       ∧ s.env.listed .tsr = [0x08#8, 0x08#8])
    ∧ (let s := answering sending2 [(.tsr, 0x08), (.tsr, 0x08)]
       s.cfg.chipMap = ChipMap.ns8390 ∧ CountersFit s
         ∧ (s.slot1 ≠ .sending ∧ s.cfg.numTxSlots = .two ∧ s.slot2 = .sending)
         ∧ (∀ len, ¬ (Slot.two.other.exists s.cfg = true ∧ s.slot Slot.two.other = .loaded len))
         ∧ s.env.listed .tsr = [0x08#8, 0x08#8]) :=
  ⟨⟨by decide +kernel, countersFit_of_zero _ (by decide +kernel), by decide +kernel,
    free_not_loaded _ .one (by decide +kernel), by decide +kernel⟩,
   ⟨by decide +kernel, countersFit_of_zero _ (by decide +kernel), by decide +kernel,
    free_not_loaded _ .two (by decide +kernel), by decide +kernel⟩⟩

end Sys2Proof.Tests
end

section
/-! Scope: the admission of a configuration (00_scope.md R9, R10) and the step's command (R18). -/

namespace Sys2Proof.Machine

/-- The pages from `lo` up to `hi` read one by one, and the comparison of the bounds that `regionsSound` makes. The two pages that
decide it are the last one, `hi - 1`, and the first one that both regions could share, `max lo first`. -/
theorem pages_apart_iff {lo hi first stop : Nat} (hlo : lo ≤ 255) (hle : lo ≤ hi) (hring : first < stop) :
    (∀ p : Nat, lo ≤ p → p < hi → p ≤ 255 ∧ ¬ (first ≤ p ∧ p < stop)) ↔ hi ≤ 256 ∧ min hi stop ≤ max lo first := by
  constructor
  · intro h
    have hlast := h (hi - 1)
    have hshared := h (max lo first)
    omega
  · rintro ⟨hend, hapart⟩ p hp hphi
    omega

/-- The four conditions of R10, the transmit region's page by page. -/
theorem regionsSound_iff (cfg : Cfg) :
    regionsSound cfg = true ↔
      cfg.rxStartPage.toNat < cfg.stopPage.toNat
      ∧ 2 ≤ cfg.stopPage.toNat - cfg.rxStartPage.toNat
      ∧ (∀ p : Nat, cfg.txStartPage.toNat ≤ p → p < txEnd cfg →
          p ≤ 255 ∧ ¬ (cfg.rxStartPage.toNat ≤ p ∧ p < cfg.stopPage.toNat))
      ∧ cfg.ethFrameLen ≤ cfg.txSlot2Offset.toNat * cfg.pageSize := by
  have hlo : cfg.txStartPage.toNat ≤ 255 := Nat.le_of_lt_succ cfg.txStartPage.isLt
  have hle : cfg.txStartPage.toNat ≤ txEnd cfg := Nat.le_add_right _ _
  have hlen : 2 ≤ ringLen cfg ↔ 2 ≤ cfg.stopPage.toNat - cfg.rxStartPage.toNat := by
    unfold ringLen; omega
  rw [regionsSound, decide_eq_true_iff, hlen]
  refine and_congr_right fun hring => and_congr_right fun _ => ?_
  rw [pages_apart_iff hlo hle hring, and_assoc]

/-- The ranges of R9 and the conditions of R10, one after the other. -/
theorem admitted_iff (cfg : Cfg) :
    admitted cfg = true ↔
      (1 ≤ cfg.maxRxIter ∧ 1 ≤ cfg.maxService ∧ 1600 ≤ cfg.overrunWaitMin ∧ 1 ≤ cfg.pageSize) ∧ regionsSound cfg = true := by
  rw [admitted, Bool.and_eq_true, inRangeCfg, decide_eq_true_iff]

/-- The step of an unfaulted state whose configuration is not admitted (60_exceptions.md R251). -/
theorem step_inadmissible {s : State} (hf : s.fault = none) (ha : admitted s.cfg = false) :
    step s = .refused .inadmissibleConfig := by
  have hfetch : fetch s = .error .inadmissibleConfig := by simp [fetch, ha]
  simp only [step, hf, hfetch]

/-- Settles O7: R9's ranges and R10's conditions are the two halves of `admitted`, the transmit region's by `pages_apart_iff`. -/
theorem inadmissibleConfigRefused : Obligations.InadmissibleConfigRefused := by
  unfold Obligations.InadmissibleConfigRefused
  intro s hf
  refine ⟨?_, step_inadmissible hf⟩
  rw [admitted_iff, regionsSound_iff, txEnd, and_comm]
  simp only [and_assoc]

/-- Settles O5, by `step_command`: the word decodes and its issuer may issue it, which leaves the branch that runs it. -/
theorem stepRunsDecodedCommand : Obligations.StepRunsDecodedCommand := by
  unfold Obligations.StepRunsDecodedCommand
  intro s c rest i hf ha hc hd hm
  rw [step_command hf ha hc, hd]
  exact if_pos hm

end Sys2Proof.Machine
end

section
/-! Invariants of a run: what holds before an operation or a step holds after it, packaged once over the chain of small changes
(`Run.keeps`) and over the step (`step_keeps`); then the shadow, the counters, chip memory and the receive ring. -/

namespace Sys2Proof.Machine

/-- What every small change keeps, a chain of them keeps. -/
theorem Run.keeps {w : Bool} {n : Nat} {s t : State} {P : State → Prop}
    (hmicro : ∀ {k : Nat} {s t : State}, Micro w k s t → P s → P t) (h : Run w n s t) (hs : P s) : P t := by
  induction h with
  | refl => exact hs
  | tail _ m _ ih => exact hmicro m (ih hs)

/-- What taking a command and every operation keep, a step keeps. -/
theorem step_keeps {P : State → Prop}
    (hgiven : ∀ (s : State) (c : Command) (rest : List Command), P s → P (s.given c rest))
    (hexec : ∀ {i : Instr} {s t : State}, admitted s.cfg = true → exec i s = .next t → P s → P t)
    {s t : State} (h : step s = .next t) (hs : P s) : P t := by
  obtain rfl | ⟨i, c, rest, ha, -, -, he⟩ := step_cases h
  · exact hs
  · exact hexec (s := s.given c rest) ha he (hgiven s c rest hs)

/-! ### The fault -/

/-- Settles O6: a chain of small changes never clears a fault (`Run.fault_stays`), and INIT names no fault (`initialise_eq`). -/
theorem faultIsFinal : Obligations.FaultIsFinal := by
  unfold Obligations.FaultIsFinal
  refine ⟨fun _ _ => rfl, fun s k hk => by simp only [step, hk], fun i s t hs h => ?_, fun start s t h => ?_⟩
  · rw [← Option.isSome_iff_ne_none] at hs ⊢
    exact (exec_run h).fault_stays hs
  · cases h
    rw [initialise_eq]
    rfl

/-! ### The shadow is the trace's last write -/

theorem lastWrite_append (r : ChipReg) (cur : Option Byte) (es fs : List Event) :
    lastWrite r cur (es ++ fs) = lastWrite r (lastWrite r cur es) fs := List.foldl_append

/-- An event that is no register write leaves every shadow. -/
theorem shadowAfter_of_not_write {e : Event} (h : e.isWrite = false) (r : ChipReg) (cur : Option Byte) :
    e.shadowAfter r cur = cur := by
  cases e with
  | chipW q v => cases h
  | _ => rfl

theorem lastWrite_of_no_write {es : List Event} (h : ∀ e ∈ es, e.isWrite = false) (r : ChipReg) (cur : Option Byte) :
    lastWrite r cur es = cur := by
  induction es with
  | nil => rfl
  | cons e rest ih =>
    have he : e.shadowAfter r cur = cur := shadowAfter_of_not_write (h e List.mem_cons_self) r cur
    exact (congrArg (lastWrite r · rest) he).trans (ih fun f hf => h f (List.mem_cons_of_mem _ hf))

/-- One register write, in the trace and in the shadow. -/
theorem shadowAfter_chipW (sh : Shadow) (q r : ChipReg) (v : Byte) :
    (Event.chipW q v).shadowAfter r (sh.get r) = (sh.put q v).get r := by
  rw [Shadow.get_put, Event.shadowAfter]
  simp only [eq_comm]

/-- Register writes in order, in the trace and in the shadow. -/
theorem lastWrite_writeEvents (sh : Shadow) (ws : List (ChipReg × Byte)) (r : ChipReg) :
    lastWrite r (sh.get r) (writeEvents ws) = (sh.putAll ws).get r := by
  induction ws generalizing sh with
  | nil => rfl
  | cons x rest ih =>
    have hx := shadowAfter_chipW sh x.1 r x.2
    exact (congrArg (lastWrite r · (writeEvents rest)) hx).trans (ih (sh.put x.1 x.2))

/-- The nested `IRQ` steps of a preemption point write no register. -/
theorem nestedEvents_no_write (g : Option LogKind) (n : Nat) : ∀ e ∈ nestedEvents g n, e.isWrite = false := by
  cases g with
  | none => simp [nestedEvents]
  | some k =>
    intro e he
    simp only [nestedEvents, List.mem_flatten, List.mem_replicate] at he
    obtain ⟨l, ⟨-, rfl⟩, he⟩ := he
    simp only [List.mem_cons, List.not_mem_nil, or_false] at he
    obtain rfl | rfl := he <;> rfl

/-- From `s` to `t` events were appended, and the shadow followed their writes. -/
def Appended (s t : State) : Prop :=
  ∃ es, t.trace = s.trace ++ es ∧ ∀ r, t.shadow.get r = lastWrite r (s.shadow.get r) es

theorem Appended.of_no_write {s t : State} {es : List Event} (ht : t.trace = s.trace ++ es) (hs : t.shadow = s.shadow)
    (he : ∀ e ∈ es, e.isWrite = false) : Appended s t :=
  ⟨es, ht, fun r => by rw [lastWrite_of_no_write he, hs]⟩

theorem Appended.of_writes {s t : State} (ws : List (ChipReg × Byte)) (ht : t.trace = s.trace ++ writeEvents ws)
    (hs : t.shadow = s.shadow.putAll ws) : Appended s t :=
  ⟨writeEvents ws, ht, fun r => by rw [lastWrite_writeEvents, hs]⟩

/-- What was appended leaves the shadow the last write of the trace. -/
theorem Appended.keeps_lastWrite {s t : State} (h : Appended s t) (hs : ∀ r, s.shadow.get r = lastWrite r none s.trace)
    (r : ChipReg) : t.shadow.get r = lastWrite r none t.trace := by
  obtain ⟨es, ht, hsh⟩ := h
  rw [ht, lastWrite_append, ← hs, hsh]

/-- Every small change appends to the trace, and the shadow follows. -/
theorem Micro.appended {w : Bool} {k : Nat} {s t : State} (h : Micro w k s t) : Appended s t := by
  cases h with
  | book h => exact .of_no_write (es := []) (by rw [h, List.append_nil]; rfl) (by rw [h]; rfl) (by simp)
  | emit _ he => exact .of_no_write rfl rfl (by simpa using he)
  | write _ v => exact .of_writes [(_, v)] rfl rfl
  | imr _ v => exact .of_writes [(_, v)] rfl rfl
  | rebuild => exact .of_writes _ (by rw [mcRebuild_eq]) (by rw [mcRebuild_eq])
  | init => exact .of_writes _ (by rw [initialise_eq]) (by rw [initialise_eq])
  | release _ p => exact .of_writes [(.bnry, ringPred s.cfg p)] rfl rfl
  | count => exact .of_no_write (es := []) (List.append_nil _).symm rfl (by simp)
  | preempt => exact .of_no_write (by rw [State.preempt_eq]) (by rw [State.preempt_eq]) (nestedEvents_no_write _ _)
  | load => exact .of_no_write (es := []) (List.append_nil _).symm rfl (by simp)

/-- Settles O13: every small change appends to the trace and the shadow follows its writes (`Micro.appended`). -/
theorem stepKeepsShadowTheLastWrite : Obligations.StepKeepsShadowTheLastWrite := by
  unfold Obligations.StepKeepsShadowTheLastWrite
  intro s t hs h
  refine step_keeps (P := fun s => ∀ r, s.shadow.get r = lastWrite r none s.trace) (fun _ _ _ h => h) ?_ h hs
  intro i s t _ he
  exact (exec_run he).keeps fun m => m.appended.keeps_lastWrite

/-! ### Counters and chip memory -/

/-- A count keeps every counter within its width. -/
theorem count_countersFit {s : State} (c : Counter) (n : Nat) (h : CountersFit s) : CountersFit (s.count c n) := by
  intro d
  rw [State.count_get]
  split
  · exact Nat.mod_lt _ (Nat.two_pow_pos _)
  · exact h d

theorem CountersFit.congr {s t : State} (h : CountersFit s) (hc : t.cfg = s.cfg) (hs : t.stats = s.stats) : CountersFit t := by
  unfold CountersFit
  rwa [hc, hs]

theorem Micro.keeps_countersFit {w : Bool} {k : Nat} {s t : State} (m : Micro w k s t) (h : CountersFit s) : CountersFit t := by
  cases m with
  | count _ c n => exact count_countersFit c n h
  | book hb => exact h.congr (by rw [hb]; rfl) (by rw [hb]; rfl)
  | rebuild => rw [mcRebuild_eq]; exact h
  | init => rw [initialise_eq]; exact h
  | preempt => rw [State.preempt_eq]; exact h
  | _ => exact h

theorem Micro.keeps_memory_wf {w : Bool} {k : Nat} {s t : State} (m : Micro w k s t) (h : Memory.wf s.mem) : Memory.wf t.mem := by
  cases m with
  | load _ p bs => exact Memory.wf_copyIn p bs 0 h
  | book hb => rw [hb]; exact h
  | rebuild => rw [mcRebuild_eq]; exact h
  | init => rw [initialise_eq]; exact h
  | preempt => rw [State.preempt_eq]; exact h
  | _ => exact h

/-- Settles O12: a count is taken modulo the width, a copy keeps the canonical form (`Memory.wf_copyIn`), and no other small
change touches either. -/
theorem stepKeepsCountersAndMemory : Obligations.StepKeepsCountersAndMemory := by
  unfold Obligations.StepKeepsCountersAndMemory
  intro s t h
  constructor
  · exact step_keeps (P := CountersFit) (fun _ _ _ h => h) (fun _ he => (exec_run he).keeps Micro.keeps_countersFit) h
  · exact step_keeps (P := fun s => Memory.wf s.mem) (fun _ _ _ h => h)
      (fun _ he => (exec_run he).keeps Micro.keeps_memory_wf) h

/-! ### The receive ring -/

/-- The ring pointer, where set, is in the ring and BNRY is one page behind it: what `RingInv` says whether open or not. -/
def BoundaryBehind (s : State) : Prop :=
  ∀ p, s.currentPage = some p → inRing s.cfg p = true ∧ s.shadow.get .bnry = some (ringPred s.cfg p)

theorem ringInv_iff (s : State) : RingInv s ↔ (s.isOpen = true → s.currentPage.isSome = true) ∧ BoundaryBehind s :=
  ⟨fun ⟨ho, hr, hb⟩ => ⟨ho, fun p hp => ⟨hr p hp, hb p hp⟩⟩,
    fun ⟨ho, h⟩ => ⟨ho, fun p hp => (h p hp).1, fun p hp => (h p hp).2⟩⟩

/-- A change that leaves the configuration, the ring pointer and BNRY. -/
theorem BoundaryBehind.congr {s t : State} (h : BoundaryBehind s) (hc : t.cfg = s.cfg) (hp : t.currentPage = s.currentPage)
    (hb : t.shadow.get .bnry = s.shadow.get .bnry) : BoundaryBehind t := by
  unfold BoundaryBehind
  rwa [hc, hp, hb]

/-- The ring pointer set to a page of the ring, with BNRY one page behind. -/
theorem BoundaryBehind.of_set {t : State} {p : Byte} (hp : t.currentPage = some p) (hr : inRing t.cfg p = true)
    (hb : t.shadow.get .bnry = some (ringPred t.cfg p)) : BoundaryBehind t := by
  intro q hq
  obtain rfl : p = q := Option.some.inj (hp.symm.trans hq)
  exact ⟨hr, hb⟩

theorem marWrites_not_bnry (t : HashTable) : ∀ x ∈ marWrites t, x.1 ≠ .bnry := by simp [marWrites]

theorem rebuildWrites_not_bnry (s : State) : ∀ x ∈ rebuildWrites s, x.1 ≠ .bnry := by
  intro x hx
  simp only [rebuildWrites, List.mem_append, List.mem_singleton] at hx
  obtain (rfl | hx) | rfl := hx
  · simp
  · exact marWrites_not_bnry _ x hx
  · simp

/-- INIT writes BNRY once, with the page before the end of the ring (40_bringup.md R116). -/
theorem initWrites_bnry (start : Bool) (s : State) (sh : Shadow) :
    (sh.putAll (initWrites start s)).get .bnry = some (s.cfg.stopPage - 1) := by
  have hpar : ∀ sh : Shadow, (sh.putAll (parWrites s.cfg.stationAddr)).get .bnry = sh.get .bnry :=
    fun sh => Shadow.get_putAll_other sh (by simp [parWrites])
  have hmar : ∀ sh : Shadow, (sh.putAll (marWrites (mcTable s.mcMode s.mcList))).get .bnry = sh.get .bnry :=
    fun sh => Shadow.get_putAll_other sh (marWrites_not_bnry _)
  cases start <;> simp [initWrites, programWrites, hpar, hmar]

/-- The ring of an admitted configuration has its first page. -/
theorem admitted_inRing_start {cfg : Cfg} (h : admitted cfg = true) : inRing cfg cfg.rxStartPage = true := by
  obtain ⟨-, hs⟩ := (admitted_iff cfg).1 h
  exact inRing_iff.2 ⟨Nat.le_refl _, ((regionsSound_iff cfg).1 hs).1⟩

/-- INIT puts the ring pointer at the first page of the ring and BNRY at the last. -/
theorem initialise_boundary (start : Bool) {s : State} (hring : inRing s.cfg s.cfg.rxStartPage = true) :
    BoundaryBehind (initialise start s) := by
  refine .of_set (p := s.cfg.rxStartPage) (by rw [initialise_eq]) (by rw [initialise_eq]; exact hring) ?_
  rw [initialise_eq]
  simp only [initWrites_bnry, ringPred, if_true]

/-- BNRY is written by INIT, which alone needs a ring that is not empty, and together with the ring pointer. -/
theorem Micro.keeps_boundary {w : Bool} {k : Nat} {s t : State} (m : Micro w k s t)
    (hring : w = true → inRing s.cfg s.cfg.rxStartPage = true) (h : BoundaryBehind s) : BoundaryBehind t := by
  cases m with
  | book hb => exact h.congr (by rw [hb]; rfl) (by rw [hb]; rfl) (by rw [hb]; rfl)
  | write _ v hr => exact h.congr rfl rfl (Shadow.get_put_other _ v hr.2.1.symm)
  | imr _ v => exact h.congr rfl rfl (Shadow.get_put_other _ v (by simp))
  | rebuild =>
    rw [mcRebuild_eq]
    exact h.congr rfl rfl (Shadow.get_putAll_other _ (rebuildWrites_not_bnry s))
  | init start _ hw => exact initialise_boundary start (hring hw)
  | release _ p hp => exact .of_set rfl hp (Shadow.get_put_same _ _ _)
  | preempt => rw [State.preempt_eq]; exact h
  | _ => exact h

theorem Run.keeps_boundary {w : Bool} {n : Nat} {s t : State} (r : Run w n s t)
    (hring : w = true → inRing s.cfg s.cfg.rxStartPage = true) (h : BoundaryBehind s) : BoundaryBehind t := by
  have hP := r.keeps (P := fun u => u.cfg = s.cfg ∧ BoundaryBehind u)
    (fun m hu => ⟨m.cfg_eq.trans hu.1, m.keeps_boundary (by rw [hu.1]; exact hring) hu.2⟩) ⟨rfl, h⟩
  exact hP.2

/-- No operation unsets the ring pointer. -/
theorem Micro.keeps_currentPage_set {w : Bool} {k : Nat} {s t : State} (m : Micro w k s t)
    (h : s.currentPage.isSome = true) : t.currentPage.isSome = true := by
  cases m with
  | book hb => rw [hb]; exact h
  | rebuild => rw [mcRebuild_eq]; exact h
  | init => rw [initialise_eq]; rfl
  | release => rfl
  | preempt => rw [State.preempt_eq]; exact h
  | _ => exact h

/-- Settles O49: DRAIN keeps BNRY one page behind the ring pointer, so the pointer is BNRY's successor. -/
theorem drainLeavesBoundaryOneBehind : Obligations.DrainLeavesBoundaryOneBehind := by
  unfold Obligations.DrainLeavesBoundaryOneBehind
  intro s t hs hp h
  have hset : t.currentPage.isSome = true :=
    (exec_run h).keeps Micro.keeps_currentPage_set (Option.isSome_iff_ne_none.2 hp)
  obtain ⟨p, ht⟩ := Option.isSome_iff_exists.1 hset
  obtain ⟨hr, hb⟩ := (exec_run h).keeps_boundary (by simp [masks, Instr.op]) ((ringInv_iff s).1 hs).2 p ht
  exact ⟨p, ringPred t.cfg p, ht, hb, (ringSucc_ringPred hr).symm, hr⟩

end Sys2Proof.Machine
end

section
/-! Who writes each field (O17), from the frames of the operations; and with the writers of `isOpen`, the ring invariant of every
step and the attach state. -/

namespace Sys2Proof.Machine

/-- COUNTER_DRAIN changes no field that a transmit completion does not. -/
theorem counterDrain_transmit (s : State) : counterDrain s = s.withTransmit (counterDrain s) := rfl

/-- Settles O17: each operation against its frame. Past its guard IRQ keeps to its handlers' fields, DRAIN and OVERRUN_RECOVER to
the receive path, TX_DONE, TX_ERROR and COUNTER_DRAIN to the transmit path, and SUBMIT keeps the host's fields. -/
theorem fieldWriters : Obligations.FieldWriters := by
  unfold Obligations.FieldWriters
  intro i s t h
  cases i with
  | init start => cases h; rw [initialise_eq]; simp [Instr.op]
  | openInst => cases h; rw [initialise_eq]; simp [Instr.op]
  | closeInst => cases h; rw [State.chipWrites_eq]; simp [Instr.op]
  | submit len =>
    simp only [exec, execSubmit] at h
    split at h
    · cases h
    · cases h
      obtain ⟨hcfg, hopen, hmode, hlist, hdel, hfault, hops, hcmds⟩ := submitFrame_keeps s len
      simp [Instr.op, hcfg, hopen, hmode, hlist, hdel, hfault, hops, hcmds]
  | setMulticast md =>
    simp only [exec, execSetMulticast] at h
    split at h
    · cases h; rw [setMulticast, mcRebuild_eq]; simp [Instr.op]
    · cases h
  | getStats => cases h; simp [Instr.op]
  | irq =>
    simp only [exec, execIrq] at h
    split at h
    · cases h; simp [Instr.op, State.irqTurnedAway]
    · cases h; rw [dispatchIrq_eq]; simp [Instr.op, State.withHandlers]
  | txCollision =>
    simp only [exec, execTxCollision] at h
    split at h
    · cases h; rw [State.chipWrites_eq]; simp [Instr.op]
    · cases h; simp [Instr.op]
  | drain => cases h; rw [drain_receive]; simp [Instr.op, State.withReceive]
  | txDone => cases h; rw [txDone_transmit]; simp [Instr.op, State.withTransmit]
  | txError => cases h; rw [txError_transmit]; simp [Instr.op, State.withTransmit]
  | counterDrain => cases h; rw [counterDrain_transmit]; simp [Instr.op, State.withTransmit]
  | rdcAck => cases h; simp [Instr.op, rdcAck]
  | overrunRecover => cases h; rw [overrunRecover_receive]; simp [Instr.op, State.withReceive]
  | mcRebuild => cases h; rw [mcRebuild_eq]; simp [Instr.op]
  | triggerSend => cases h; rw [triggerSend_eq]; simp [Instr.op]
  | txTimeoutReset =>
    cases h
    rw [txTimeoutReset_eq, initialise_eq]
    simp [Instr.op, State.cardReset]

/-! ### The ring invariant -/

/-- An operation that ends open leaves the ring pointer set: OPEN sets it, CLOSE closes, every other one keeps
both. -/
theorem exec_keeps_setWhenOpen {i : Instr} {s t : State} (h : exec i s = .next t)
    (hs : s.isOpen = true → s.currentPage.isSome = true) (ht : t.isOpen = true) : t.currentPage.isSome = true := by
  by_cases hop : i.op ∈ [Op.OPEN, Op.CLOSE]
  · have hi : i = .openInst ∨ i = .closeInst := by cases i <;> simp [Instr.op] at hop ⊢
    obtain rfl | rfl := hi
    · cases h; rw [initialise_eq]; rfl
    · cases h; cases ht
  · obtain ⟨hopen, -⟩ := fieldWriters i s t h
    exact (exec_run h).keeps Micro.keeps_currentPage_set (hs (hopen hop ▸ ht))

/-- Settles O11: the boundary by `Run.keeps_boundary`, with the ring that admission gives; the set pointer by
`exec_keeps_setWhenOpen`. -/
theorem stepKeepsRingInvariant : Obligations.StepKeepsRingInvariant := by
  unfold Obligations.StepKeepsRingInvariant
  intro s t hs h
  refine step_keeps (P := RingInv) (fun s c rest ⟨ho, hr, hb⟩ => ⟨ho, hr, hb⟩) ?_ h hs
  intro i s t ha he hs
  rw [ringInv_iff] at hs ⊢
  exact ⟨exec_keeps_setWhenOpen he hs.1, (exec_run he).keeps_boundary (fun _ => admitted_inRing_start ha) hs.2⟩

/-! ### Attach -/

theorem attach_shadow_get (cfg : Cfg) (r : ChipReg) : (State.attach cfg).shadow.get r = none := by
  simp [State.attach, Shadow.get, Vector.get]

/-- A DRAIN that finds the ring pointer unset ends with its fault (42_receive.md R166). -/
theorem drain_unset {s : State} (hn : 1 ≤ s.cfg.maxRxIter) (hp : s.currentPage = none)
    (h : inRing s.cfg (s.env.chipAnswer .curr).1 = true) : drain s = (0, s.currRead.raise .unsetState) := by
  have hw := walkOne_unset s h hp
  rw [drain, walk_stop s hn (by rw [hw]), hw]

/-- Settles O8: the attach record field by field, and `drain_unset`. -/
theorem attachValues : Obligations.AttachValues := by
  unfold Obligations.AttachValues
  refine ⟨fun cfg => ?_, fun s hn hp hr => ⟨_, rfl, ?_⟩⟩
  · refine ⟨rfl, rfl, rfl, rfl, rfl, rfl, rfl, rfl, rfl, rfl, rfl, rfl, rfl, rfl, fun m => ?_, fun c => ?_,
      attach_shadow_get cfg, rfl, rfl⟩
    · simp [State.attach, Vector.get]
    · cases c <;> rfl
  · rw [drain_unset hn hp hr]
    rfl

theorem slotInv_attach (cfg : Cfg) : SlotInv (State.attach cfg) where
  atMostOneSending := by simp [sendingCount, State.attach]
  txingIffSending := by simp [sendingCount, State.attach]
  loadedBehind := by simp [loadedCount, SlotState.isLoaded, State.attach]
  queueCount := by simp [loadedCount, SlotState.isLoaded, State.attach]
  singleBuffer := by simp [SlotState.isLoaded, State.attach]

theorem ringInv_attach (cfg : Cfg) : RingInv (State.attach cfg) where
  setWhenOpen h := by cases h
  inTheRing p h := by cases h
  oneBehind p h := by cases h

/-- Settles O9: attach has no slot occupied, no ring pointer, no count, no memory, no write; reset is attach with
configuration K. -/
theorem invariantsHoldAtAttach : Obligations.InvariantsHoldAtAttach := by
  unfold Obligations.InvariantsHoldAtAttach
  refine ⟨fun cfg => ⟨slotInv_attach cfg, ringInv_attach cfg, fun c => ?_, ⟨List.Pairwise.nil, by simp [State.attach]⟩,
    attach_shadow_get cfg⟩, Cfg.vectorK, rfl, by decide⟩
  cases c <;> exact Nat.two_pow_pos _

end Sys2Proof.Machine
end

section
/-! The transmit slots (10_state.md R38): the five invariants leave three shapes of the slots (`slotInv_iff`), and each operation
that touches a slot goes from one shape to another. -/

namespace Sys2Proof.Machine

theorem Slot.eq_or_eq_other (i j : Slot) : i = j ∨ i = j.other := by
  cases i <;> cases j <;> simp [Slot.other]

theorem Slot.exists_of_two {cfg : Cfg} (h : cfg.numTxSlots = .two) (i : Slot) : i.exists cfg = true := by
  cases i <;> simp [Slot.exists, h]

/-- In the single-buffer configuration slot 1 alone exists. -/
theorem Slot.eq_one_of_exists {cfg : Cfg} (h : cfg.numTxSlots = .one) {i : Slot} (hi : i.exists cfg = true) : i = .one := by
  cases i with
  | one => rfl
  | two => simp [Slot.exists, h] at hi

theorem numTxSlots_two_of_exists {cfg : Cfg} {i : Slot} (hi : i.exists cfg = true) (ho : i.other.exists cfg = true) :
    cfg.numTxSlots = .two := by
  cases hn : cfg.numTxSlots with
  | one => cases i <;> simp [Slot.other, Slot.exists, hn] at hi ho
  | two => rfl

/-- The count of sending slots, slot `i` first. -/
theorem sendingCount_eq (s : State) (i : Slot) :
    sendingCount s = (if i.exists s.cfg = true ∧ s.slot i = .sending then 1 else 0)
      + (if i.other.exists s.cfg = true ∧ s.slot i.other = .sending then 1 else 0) := by
  cases i
  · simp [sendingCount, Slot.other, Slot.exists, State.slot]
  · simp [sendingCount, Slot.other, Slot.exists, State.slot, Nat.add_comm]

/-- The count of loaded slots, slot `i` first. -/
theorem loadedCount_eq (s : State) (i : Slot) :
    loadedCount s = (if i.exists s.cfg = true ∧ (s.slot i).isLoaded = true then 1 else 0)
      + (if i.other.exists s.cfg = true ∧ (s.slot i.other).isLoaded = true then 1 else 0) := by
  cases i
  · simp [loadedCount, Slot.other, Slot.exists, State.slot]
  · simp [loadedCount, Slot.other, Slot.exists, State.slot, Nat.add_comm]

/-- The three shapes that the slot invariants leave: idle, slot `i` sending alone, slot `i` sending with the other one loaded. -/
inductive SlotShape (s : State) : Prop
  | idle (ht : s.txing = false) (hq : s.txqueue = 0) (hfree : ∀ i : Slot, i.exists s.cfg = true → s.slot i = .free)
  | sending (i : Slot) (hi : i.exists s.cfg = true) (ht : s.txing = true) (hq : s.txqueue = 0) (hs : s.slot i = .sending)
      (hfree : i.other.exists s.cfg = true → s.slot i.other = .free)
  | queued (i : Slot) (len : Half) (htwo : s.cfg.numTxSlots = .two) (ht : s.txing = true) (hq : s.txqueue = 1)
      (hs : s.slot i = .sending) (hl : s.slot i.other = .loaded len)

/-- A count of one sending slot is the count of some slot. -/
theorem exists_sending {s : State} (h : sendingCount s = 1) : ∃ i : Slot, i.exists s.cfg = true ∧ s.slot i = .sending := by
  by_contra hno
  rw [not_exists] at hno
  rw [sendingCount_eq s .one, if_neg (hno _), if_neg (hno _)] at h
  cases h

theorem SlotInv.shape {s : State} (h : SlotInv s) : SlotShape s := by
  obtain ⟨hone, hsend, hbehind, hcount, -⟩ := h
  cases ht : s.txing with
  | false =>
    have hs : sendingCount s = 0 := by simp only [ht, Bool.false_eq_true, false_iff] at hsend; omega
    have hl : loadedCount s = 0 := by simpa [ht] using hbehind
    refine .idle ht (hcount.trans hl) fun i hi => ?_
    rw [sendingCount_eq s i] at hs
    rw [loadedCount_eq s i] at hl
    cases hi' : s.slot i with
    | free => rfl
    | loaded len => simp [hi, hi', SlotState.isLoaded] at hl
    | sending => simp [hi, hi'] at hs
  | true =>
    obtain ⟨i, hi, hs⟩ := exists_sending (hsend.1 ht)
    rw [sendingCount_eq s i, if_pos ⟨hi, hs⟩] at hone
    rw [loadedCount_eq s i] at hcount
    by_cases ho : i.other.exists s.cfg = true
    · cases ho' : s.slot i.other with
      | free => exact .sending i hi ht (by simpa [hs, ho', SlotState.isLoaded] using hcount) hs (fun _ => ho')
      | loaded len =>
        exact .queued i len (numTxSlots_two_of_exists hi ho) ht (by simpa [hs, ho, ho', SlotState.isLoaded] using hcount) hs ho'
      | sending => simp [ho, ho'] at hone
    · exact .sending i hi ht (by simpa [hs, ho, SlotState.isLoaded] using hcount) hs (fun h => absurd h ho)

theorem SlotShape.inv {s : State} (h : SlotShape s) : SlotInv s := by
  cases h with
  | idle ht hq hfree =>
    have hs : sendingCount s = 0 := by
      rw [sendingCount_eq s .one, if_neg, if_neg] <;> (rintro ⟨hi, hs⟩; rw [hfree _ hi] at hs; cases hs)
    have hl : loadedCount s = 0 := by
      rw [loadedCount_eq s .one, if_neg, if_neg] <;> (rintro ⟨hi, hl⟩; rw [hfree _ hi] at hl; cases hl)
    have h1 : s.slot1 = .free := hfree .one rfl
    exact ⟨by omega, by simp [ht, hs], fun h => absurd hl h, hq.trans hl.symm, fun _ => ⟨by rw [h1]; rfl, hq⟩⟩
  | sending i hi ht hq hs hfree =>
    have hsc : sendingCount s = 1 := by
      rw [sendingCount_eq s i, if_pos ⟨hi, hs⟩, if_neg]
      rintro ⟨ho, hs⟩; rw [hfree ho] at hs; cases hs
    have hl : loadedCount s = 0 := by
      rw [loadedCount_eq s i, hs, if_neg (by simp [SlotState.isLoaded]), if_neg]
      rintro ⟨ho, hl⟩; rw [hfree ho] at hl; cases hl
    refine ⟨hsc.le, by simp [ht, hsc], fun _ => ht, hq.trans hl.symm, fun hn => ⟨?_, hq⟩⟩
    obtain rfl := Slot.eq_one_of_exists hn hi
    rw [show s.slot1 = .sending from hs]; rfl
  | queued i len htwo ht hq hs hl =>
    have hex := Slot.exists_of_two htwo
    have hsc : sendingCount s = 1 := by simp [sendingCount_eq s i, hex, hs, hl]
    have hlc : loadedCount s = 1 := by simp [loadedCount_eq s i, hex, hs, hl, SlotState.isLoaded]
    exact ⟨hsc.le, by simp [ht, hsc], fun _ => ht, hq.trans hlc.symm, fun hn => by rw [htwo] at hn; cases hn⟩

theorem slotInv_iff (s : State) : SlotInv s ↔ SlotShape s := ⟨SlotInv.shape, SlotShape.inv⟩

/-! ### What leaves the slots alone -/

/-- The fields the slot invariants speak of. -/
def State.slotPart (s : State) : Cfg × SlotState × SlotState × Bool × Nat := (s.cfg, s.slot1, s.slot2, s.txing, s.txqueue)

theorem SlotInv.congr {s t : State} (h : SlotInv s) (e : t.slotPart = s.slotPart) : SlotInv t := by
  simp only [State.slotPart, Prod.mk.injEq] at e
  obtain ⟨hc, h1, h2, ht, hq⟩ := e
  have hs : sendingCount t = sendingCount s := by simp only [sendingCount, hc, h1, h2]
  have hl : loadedCount t = loadedCount s := by simp only [loadedCount, hc, h1, h2]
  obtain ⟨hone, hsend, hbehind, hcount, hsingle⟩ := h
  exact ⟨hs ▸ hone, by rwa [ht, hs], by rwa [ht, hl], by rwa [hq, hl], by rwa [hc, h1, hq]⟩

/-- The receive path leaves the slots. -/
theorem SlotInv.of_receive {s t : State} (h : SlotInv s) (e : t = s.withReceive t) : SlotInv t :=
  h.congr (by rw [e]; rfl)

theorem SlotInv.finish {s : State} (h : SlotInv s) (op : Op) (v : RetVal) : SlotInv (s.finish op v) := h.congr rfl

theorem SlotInv.returning {s : State} (h : SlotInv s) (v : RetVal) : SlotInv (s.returning v) := h.congr rfl

theorem SlotInv.opened {s : State} (h : SlotInv s) : SlotInv { s with isOpen := true } := h.congr rfl

theorem SlotInv.started {s : State} (h : SlotInv s) (now : Tick) : SlotInv { s with transStart := now } := h.congr rfl

/-- The initialization leaves every existing slot free, whatever the slots were (40_bringup.md R119). -/
theorem initialise_slotInv (start : Bool) (s : State) : SlotInv (initialise start s) := by
  refine (SlotShape.idle (by rw [initialise_eq]) (by rw [initialise_eq]) fun i hi => ?_).inv
  rw [initialise_eq] at hi ⊢
  cases i with
  | one => rfl
  | two => exact if_pos hi

theorem txTimeoutReset_slotInv (now : Tick) (s : State) : SlotInv (txTimeoutReset now s) := by
  rw [txTimeoutReset_eq]
  exact (initialise_slotInv true s.cardReset).started now

/-! ### Submission -/

/-- The timeout reset frees slot 1, which a submission takes next. -/
theorem txTimeoutReset_freeSlot (now : Tick) (s : State) : (txTimeoutReset now s).freeSlot = some .one := by
  rw [freeSlot_eq_some, txTimeoutReset_eq, initialise_eq]
  exact .inl ⟨rfl, rfl⟩

theorem freeSlot_free {s : State} {i : Slot} (h : s.freeSlot = some i) : i.exists s.cfg = true ∧ s.slot i = .free := by
  obtain ⟨rfl, h1⟩ | ⟨rfl, -, hn, h2⟩ := freeSlot_eq_some.1 h
  · exact ⟨rfl, h1⟩
  · exact ⟨Slot.exists_of_two hn _, h2⟩

/-- The critical section on a free slot: with no transmit in flight the slot is sending, with one it is queued behind. -/
theorem criticalSection_slotInv {s : State} (len : Half) (res : SubmitResult) {i : Slot} (hopen : s.isOpen = true)
    (hi : s.freeSlot = some i) (h : SlotInv s) : SlotInv (criticalSection len res s) := by
  obtain ⟨hex, hfree⟩ := freeSlot_free hi
  refine SlotShape.inv ?_
  cases h.shape with
  | idle ht hq hall =>
    rw [criticalSection_sends s len res hopen ht hi]
    refine .sending i hex rfl hq (by cases i <;> rfl) fun ho => ?_
    have := hall i.other ho
    cases i <;> exact this
  | sending j hj ht hq hs hother =>
    obtain rfl : i = j.other := (Slot.eq_or_eq_other i j).resolve_left fun he => by rw [he, hs] at hfree; cases hfree
    rw [criticalSection_queues s len res hopen ht hi]
    refine .queued j (sendLen s.cfg len) (numTxSlots_two_of_exists hj hex) ht (congrArg (· + 1) hq) ?_ (by cases j <;> rfl)
    cases j <;> exact hs
  | queued j _ _ _ _ hs hl =>
    obtain rfl | rfl := Slot.eq_or_eq_other i j
    · rw [hs] at hfree; cases hfree
    · rw [hl] at hfree; cases hfree

/-- SUBMIT enters its critical section with a slot free: past the busy test, or after the timeout reset freed them all. -/
theorem submitFrame_slotInv {s : State} (len : Half) (h : SlotInv s) : SlotInv (submitFrame len s) := by
  unfold submitFrame
  split
  · exact h.congr rfl
  · rename_i hopen
    have hopen : s.isOpen = true := by simpa using hopen
    split
    · split
      · exact h.congr rfl
      · exact criticalSection_slotInv len _ ((txTimeoutReset_keeps s _).isOpen.trans hopen) (txTimeoutReset_freeSlot _ s)
          (txTimeoutReset_slotInv _ s)
    · rename_i hbusy
      obtain ⟨i, hi⟩ := Option.ne_none_iff_exists'.1 (mt freeSlot_eq_none.1 hbusy)
      exact criticalSection_slotInv len _ hopen hi h

/-! ### Completion -/

theorem sendingSlot_sending {s : State} {i : Slot} (h : s.sendingSlot = some i) :
    i.exists s.cfg = true ∧ s.slot i = .sending := by
  obtain ⟨rfl, h1⟩ | ⟨rfl, -, hn, h2⟩ := sendingSlot_eq_some.1 h
  · exact ⟨rfl, h1⟩
  · exact ⟨Slot.exists_of_two hn _, h2⟩

/-- TX_DONE frees the sending slot, and sends the other one when it is loaded. -/
theorem retire_slotInv {s : State} (now : Tick) (h : SlotInv s) : SlotInv (retire now s) := by
  cases hd : s.sendingSlot with
  | none => unfold retire; rw [hd]; exact h.congr rfl
  | some i =>
    obtain ⟨hex, hsend⟩ := sendingSlot_sending hd
    refine SlotShape.inv ?_
    cases h.shape with
    | idle _ _ hall => rw [hall i hex] at hsend; cases hsend
    | sending j hj ht hq hs hother =>
      obtain rfl : i = j := by
        refine (Slot.eq_or_eq_other i j).resolve_right fun he => ?_
        subst he; rw [hother hex] at hsend; cases hsend
      have hl : s.loadedLen i.other = none := loadedLen_eq_none.2 fun len ⟨ho, hl⟩ => by rw [hother ho] at hl; cases hl
      rw [retire_idle s now hd hl]
      refine .idle rfl hq fun k hk => ?_
      obtain rfl | rfl := Slot.eq_or_eq_other k i
      · cases k <;> rfl
      · have := hother hk
        cases i <;> exact this
    | queued j len htwo ht hq hs hl =>
      obtain rfl : i = j := by
        refine (Slot.eq_or_eq_other i j).resolve_right fun he => ?_
        subst he; rw [hl] at hsend; cases hsend
      rw [retire_promotes s now hd (loadedLen_eq_some.2 ⟨Slot.exists_of_two htwo _, hl⟩)]
      exact .sending i.other (Slot.exists_of_two htwo _) ht (by simp [hq]) (by cases i <;> rfl)
        (fun _ => by cases i <;> rfl)

theorem txDone_slotInv {s : State} (now : Tick) (h : SlotInv s) : SlotInv (txDone now s) := by
  have hread : SlotInv ((s.chipRead .tsr).2.chipRead .ncr).2 := h.congr rfl
  exact (retire_slotInv now hread).of_receive (State.withReceive_of_stats (txStats_frame _ _ _))

theorem txError_slotInv {s : State} (now : Tick) (h : SlotInv s) : SlotInv (txError now s) := by
  have hlog : SlotInv ((s.chipRead .tsr).2.log (.txErrorClass (s.chipRead .tsr).1)) := h.congr rfl
  unfold txError
  dsimp only
  split
  · exact txDone_slotInv now hlog
  · have hcount := hlog.congr (t := ((s.chipRead .tsr).2.log (.txErrorClass (s.chipRead .tsr).1)).count .txErrors 1) rfl
    exact hcount.of_receive (State.withReceive_of_stats (State.withStats_trans (State.countIf_frame _ _ _)
      (State.withStats_trans (State.countIf_frame _ _ _) (State.countIf_frame _ _ _))))

/-! ### The dispatcher -/

theorem State.andThen_slotInv {s : State} {f : State → State} (h : SlotInv s) (hf : SlotInv (f s)) : SlotInv (s.andThen f) := by
  unfold State.andThen
  split
  · exact h
  · exact hf

theorem routeReceive_receive (v : Byte) (s : State) : routeReceive v s = s.withReceive (routeReceive v s) := by
  unfold routeReceive
  dsimp only
  split
  · exact overrunRecover_receive s
  · split
    · exact drain_receive s
    · rfl

theorem routeTransmit_slotInv {s : State} (v : Byte) (now : Tick) (h : SlotInv s) : SlotInv (routeTransmit v now s) := by
  unfold routeTransmit
  dsimp only
  split
  · exact txDone_slotInv now h
  · split
    · exact txError_slotInv now h
    · exact h

theorem serviceRound_slotInv {s : State} (now : Tick) (v : Byte) (h : SlotInv s) : SlotInv (serviceRound now v s) := by
  have hrx : SlotInv (routeReceive v s) := h.of_receive (routeReceive_receive v s)
  refine State.andThen_slotInv hrx ?_
  have hcounters := (routeTransmit_slotInv v now hrx).of_receive (routeCounters_receive _ v)
  rw [routeRemote_eq, ackAndRearm_eq]
  exact hcounters.congr rfl

theorem pollCauses_slotInv {s : State} (h : SlotInv s) : SlotInv (pollCauses s).2 := by
  rw [pollCauses_eq]
  exact h.congr rfl

theorem serviceLoop_slotInv {s : State} (now : Tick) (k : Nat) (h : SlotInv s) : SlotInv (serviceLoop now k s) := by
  induction k generalizing s with
  | zero =>
    simp only [serviceLoop]
    split
    · exact pollCauses_slotInv h
    · exact (pollCauses_slotInv h).congr rfl
  | succ k ih =>
    simp only [serviceLoop]
    split
    · exact pollCauses_slotInv h
    · have hround := serviceRound_slotInv now (pollCauses s).1 (pollCauses_slotInv h)
      exact State.andThen_slotInv hround (ih hround)

theorem dispatchIrq_slotInv {s : State} (now : Tick) (h : SlotInv s) : SlotInv (dispatchIrq now s) := by
  have hentry : SlotInv s.irqEntry := h.congr rfl
  have hloop := serviceLoop_slotInv now s.cfg.maxService hentry
  exact State.andThen_slotInv hloop (hloop.congr rfl)

/-! ### Every operation -/

theorem exec_slotInv {i : Instr} {s t : State} (he : exec i s = .next t) (h : SlotInv s) : SlotInv t := by
  cases i with
  | init start => cases he; exact (initialise_slotInv start s).finish _ _
  | openInst => cases he; exact (initialise_slotInv true s).opened.finish _ _
  | closeInst => cases he; exact h.congr (by rw [State.chipWrites_eq]; rfl)
  | submit len =>
    simp only [exec, execSubmit] at he
    split at he
    · cases he
    · cases he; exact submitFrame_slotInv len h
  | setMulticast md =>
    simp only [exec, execSetMulticast] at he
    split at he
    · cases he; exact h.congr (by rw [setMulticast, mcRebuild_eq]; rfl)
    · cases he
  | getStats => cases he; exact h.congr rfl
  | irq =>
    simp only [exec, execIrq] at he
    split at he
    · cases he; exact h.congr rfl
    · cases he; exact dispatchIrq_slotInv _ h
  | txCollision =>
    simp only [exec, execTxCollision] at he
    split at he
    · cases he; exact h.congr (by rw [State.chipWrites_eq]; rfl)
    · cases he; exact h.congr rfl
  | drain => cases he; exact (h.of_receive (drain_receive s)).returning _
  | txDone => cases he; exact (txDone_slotInv _ h).returning _
  | txError => cases he; exact (txError_slotInv _ h).returning _
  | counterDrain => cases he; exact (h.of_receive (counterDrain_receive s)).returning _
  | rdcAck => cases he; exact h.congr rfl
  | overrunRecover => cases he; exact (h.of_receive (overrunRecover_receive s)).returning _
  | mcRebuild => cases he; exact h.congr (by rw [mcRebuild_eq]; rfl)
  | triggerSend => cases he; exact h.congr (by rw [triggerSend_eq]; rfl)
  | txTimeoutReset => cases he; exact (txTimeoutReset_slotInv _ s).returning _

/-- Settles O10, by `exec_slotInv`: the invariants leave three shapes (`slotInv_iff`), SUBMIT goes from idle to sending to queued,
TX_DONE back, the initialization to idle, and no other operation touches a slot. -/
theorem stepKeepsSlotInvariants : Obligations.StepKeepsSlotInvariants := by
  unfold Obligations.StepKeepsSlotInvariants
  intro s t hs h
  exact step_keeps (P := SlotInv) (fun _ _ _ h => h.congr rfl) (fun _ he => exec_slotInv he) h hs

end Sys2Proof.Machine
end

section
/-! The diagnostic marker `lasttx` reaches only the logs (10_state.md R32): two states that differ in `lasttx` and in the
logs of their traces are led by every operation to two such states. -/

namespace Sys2Proof.Machine

@[simp] theorem noLogs_append (es fs : List Event) : noLogs (es ++ fs) = noLogs es ++ noLogs fs := List.filter_append ..

@[simp] theorem noLogs_log (k : LogKind) : noLogs [.log k] = [] := rfl

/-- `u` is `s` but for `lasttx` and the logs of the trace. -/
inductive LogAlike (s : State) : State → Prop
  | intro (l : LastTx) (tr : List Event) (h : noLogs tr = noLogs s.trace) : LogAlike s { s with lasttx := l, trace := tr }

/-- The same value, and states alike. -/
def PairAlike {α : Type} (a b : α × State) : Prop := b.1 = a.1 ∧ LogAlike a.2 b.2

namespace LogAlike

variable {s u : State}

theorem of_eq (he : u = { s with lasttx := u.lasttx, trace := u.trace }) (ht : noLogs u.trace = noLogs s.trace) :
    LogAlike s u := by
  rw [he]; exact .intro _ _ ht

/-- What reads neither `lasttx` nor the trace reads the same of both. -/
theorem reads {α : Type} (h : LogAlike s u) (f : State → α)
    (hf : ∀ l tr, f { s with lasttx := l, trace := tr } = f s := by exact fun _ _ => rfl) : f u = f s := by
  obtain ⟨l, tr, -⟩ := h
  exact hf l tr

/-- An update that reads neither and appends nothing keeps the states alike, whatever it makes of `lasttx`. -/
theorem update (h : LogAlike s u) (f : State → State)
    (hf : ∀ l tr, f { s with lasttx := l, trace := tr } =
      { f s with lasttx := (f { s with lasttx := l, trace := tr }).lasttx, trace := tr } := by exact fun _ _ => rfl)
    (ht : (f s).trace = s.trace := by rfl) : LogAlike (f s) (f u) := by
  obtain ⟨l, tr, h⟩ := h
  rw [hf l tr]
  exact .intro _ tr (h.trans (congrArg noLogs ht.symm))

/-- Only a log and a later `lasttx` come from the marker. -/
theorem log (h : LogAlike s u) (k k' : LogKind) : LogAlike (s.log k) (u.log k') := by
  obtain ⟨l, tr, h⟩ := h
  exact .of_eq rfl (by simp [h])

theorem emit (h : LogAlike s u) (e : Event) : LogAlike (s.emit e) (u.emit e) := by
  obtain ⟨l, tr, h⟩ := h
  exact .of_eq rfl (by simp [h])

theorem chipWrites (h : LogAlike s u) (ws : List (ChipReg × Byte)) : LogAlike (s.chipWrites ws) (u.chipWrites ws) := by
  obtain ⟨l, tr, h⟩ := h
  rw [State.chipWrites_eq, State.chipWrites_eq]
  exact .of_eq rfl (by simp [h])

theorem chipWrite (h : LogAlike s u) (r : ChipReg) (v : Byte) : LogAlike (s.chipWrite r v) (u.chipWrite r v) :=
  h.chipWrites [(r, v)]

theorem returning (h : LogAlike s u) (v : RetVal) : LogAlike (s.returning v) (u.returning v) := h.update (·.returning v)

theorem finish (h : LogAlike s u) (op : Op) (v : RetVal) : LogAlike (s.finish op v) (u.finish op v) :=
  (h.emit _).returning v

theorem raise (h : LogAlike s u) (k : Fault) : LogAlike (s.raise k) (u.raise k) := h.update (·.raise k)

theorem count (h : LogAlike s u) (c : Counter) (n : Nat) : LogAlike (s.count c n) (u.count c n) := h.update (·.count c n)

theorem countIf (h : LogAlike s u) (b : Bool) (c : Counter) : LogAlike (s.countIf b c) (u.countIf b c) := by
  cases b
  · exact h
  · exact h.count c 1

theorem setSlot (h : LogAlike s u) (i : Slot) (v : SlotState) : LogAlike (s.setSlot i v) (u.setSlot i v) := by
  cases i with
  | one => exact h.update (·.setSlot .one v)
  | two => exact h.update (·.setSlot .two v)

theorem chipRead (h : LogAlike s u) (r : ChipReg) : PairAlike (s.chipRead r) (u.chipRead r) := by
  obtain ⟨l, tr, h⟩ := h
  exact ⟨rfl, .of_eq rfl (by simp [State.chipRead, h])⟩

theorem getHeader (h : LogAlike s u) (p : Byte) : PairAlike (s.getHeader p) (u.getHeader p) := by
  obtain ⟨l, tr, h⟩ := h
  exact ⟨rfl, .of_eq rfl (by simp [State.getHeader, h])⟩

theorem getBuffer (h : LogAlike s u) (n : Nat) : PairAlike (s.getBuffer n) (u.getBuffer n) := by
  obtain ⟨l, tr, h⟩ := h
  exact ⟨rfl, .of_eq rfl (by simp [State.getBuffer, h])⟩

theorem blockIn (h : LogAlike s u) (n : Nat) (o : Half) : LogAlike (s.blockIn n o) (u.blockIn n o) := by
  obtain ⟨l, tr, h⟩ := h
  exact .of_eq rfl (by simp [State.blockIn, h])

theorem blockOut (h : LogAlike s u) (n : Nat) (data : List Byte) (p : Byte) :
    LogAlike (s.blockOut n data p) (u.blockOut n data p) := by
  obtain ⟨l, tr, h⟩ := h
  exact .of_eq rfl (by simp [State.blockOut, h])

theorem andThen (h : LogAlike s u) {f g : State → State} (hf : LogAlike (f s) (g u)) : LogAlike (s.andThen f) (u.andThen g) := by
  unfold State.andThen
  rw [h.reads State.fault]
  split
  · exact h
  · exact hf

theorem maskIrq (h : LogAlike s u) : LogAlike s.maskIrq u.maskIrq := by
  obtain ⟨l, tr, h⟩ := h
  exact .of_eq rfl (by simp [State.maskIrq, h])

theorem unmaskIrq (h : LogAlike s u) : LogAlike s.unmaskIrq u.unmaskIrq := by
  obtain ⟨l, tr, h⟩ := h
  exact .of_eq rfl (by simp [State.unmaskIrq, h])

theorem preempt (h : LogAlike s u) : LogAlike s.preempt u.preempt := by
  obtain ⟨l, tr, h⟩ := h
  rw [State.preempt_eq, State.preempt_eq]
  exact .of_eq rfl (by simp [h, irqGuard])

end LogAlike

variable {s u : State}

/-! ### Bring-up and multicast -/

theorem mcRebuild_alike (h : LogAlike s u) : LogAlike (mcRebuild s) (mcRebuild u) := by
  obtain ⟨l, tr, h⟩ := h
  rw [mcRebuild_eq, mcRebuild_eq]
  exact .of_eq rfl (by simp [h, rebuildWrites, restoredRcr])

theorem initialise_alike (start : Bool) (h : LogAlike s u) : LogAlike (initialise start s) (initialise start u) := by
  obtain ⟨l, tr, h⟩ := h
  have hw : initWrites start { s with lasttx := l, trace := tr } = initWrites start s := rfl
  rw [initialise_eq, initialise_eq, hw]
  generalize initWrites start s = ws
  exact .of_eq rfl (by simp [h])

theorem setMulticast_alike (mode : McMode) (h : LogAlike s u) : LogAlike (setMulticast mode s) (setMulticast mode u) := by
  obtain ⟨l, tr, h⟩ := h
  exact (mcRebuild_alike (.of_eq rfl h)).finish _ _

/-! ### Transmit -/

theorem triggerSend_alike (i : Slot) (len : Half) (now : Tick) (h : LogAlike s u) :
    LogAlike (triggerSend i len now s) (triggerSend i len now u) := by
  obtain ⟨l, tr, h⟩ := h
  rw [triggerSend_eq, triggerSend_eq]
  exact .of_eq rfl (by simp [h, triggerWrites])

theorem txTimeoutReset_alike (now : Tick) (h : LogAlike s u) : LogAlike (txTimeoutReset now s) (txTimeoutReset now u) := by
  have hreset : LogAlike s.cardReset u.cardReset := by
    obtain ⟨l, tr, h⟩ := h
    exact .of_eq rfl (by simp [State.cardReset, h])
  rw [txTimeoutReset_eq, txTimeoutReset_eq]
  exact (initialise_alike true hreset).update fun s => { s with transStart := now }

theorem sendOrQueue_alike (i : Slot) (len : Half) (now : Tick) (h : LogAlike s u) :
    LogAlike (sendOrQueue i len now s) (sendOrQueue i len now u) := by
  have hsend := (triggerSend_alike i len now h).setSlot i .sending
  obtain ⟨l, tr, h⟩ := h
  unfold sendOrQueue
  dsimp only
  split
  · exact .of_eq rfl h
  · exact hsend.update fun s => { s with txing := true, lasttx := .startedBySubmit i }

theorem loadSlot_alike (len : Half) (res : SubmitResult) (h : LogAlike s u) :
    LogAlike (loadSlot len res s) (loadSlot len res u) := by
  unfold loadSlot
  rw [h.reads State.freeSlot, h.reads State.cfg, h.reads State.operands]
  cases s.freeSlot with
  | none => exact (h.log _ _).unmaskIrq.finish _ _
  | some i =>
    have hload := (h.setSlot i (.loaded (sendLen s.cfg len))).blockOut len.toNat s.operands.data (slotPage s.cfg i)
    dsimp only
    rw [hload.reads State.operands]
    exact (sendOrQueue_alike i _ _ hload).unmaskIrq.finish _ _

theorem criticalSection_alike (len : Half) (res : SubmitResult) (h : LogAlike s u) :
    LogAlike (criticalSection len res s) (criticalSection len res u) :=
  loadSlot_alike len res h.maskIrq.preempt

theorem submitFrame_alike (len : Half) (h : LogAlike s u) : LogAlike (submitFrame len s) (submitFrame len u) := by
  unfold submitFrame
  rw [h.reads State.isOpen, h.reads State.busy, h.reads State.operands, h.reads State.transStart, h.reads State.cfg]
  split
  · exact (h.log _ _).finish _ _
  · split
    · split
      · exact h.finish _ _
      · exact criticalSection_alike len _ (txTimeoutReset_alike _ h)
    · exact criticalSection_alike len _ h

theorem txStats_alike (tsr : Byte) (ncr : Nat) (h : LogAlike s u) : LogAlike (txStats tsr ncr s) (txStats tsr ncr u) := by
  have herrors : ∀ {s u : State}, LogAlike s u → ∀ a b c d, LogAlike
      (((((s.count .txErrors 1).countIf a .txCarrierErrors).countIf b .txFifoErrors).countIf c .txHeartbeatErrors).countIf
        d .txWindowErrors)
      (((((u.count .txErrors 1).countIf a .txCarrierErrors).countIf b .txFifoErrors).countIf c .txHeartbeatErrors).countIf
        d .txWindowErrors) :=
    fun h a b c d => ((((h.count _ _).countIf a _).countIf b _).countIf c _).countIf d _
  unfold txStats
  rw [h.reads State.cfg]
  dsimp only
  split
  · split
    · exact ((h.count _ _).count _ _).count _ _
    · exact (h.count _ _).count _ _
  · split
    · exact herrors ((h.count _ _).count _ _) _ _ _ _
    · exact herrors (h.count _ _) _ _ _ _

/-- The check logs according to the marker, and does nothing else. -/
theorem checkLastTx_alike (d : Slot) (h : LogAlike s u) : LogAlike (checkLastTx d s) (checkLastTx d u) := by
  obtain ⟨l, tr, h⟩ := h
  have hlogs : ∀ (b : Bool) (k : LogKind), noLogs (if b = true then [] else [.log k]) = [] := fun b k => by
    cases b <;> rfl
  rw [checkLastTx_eq, checkLastTx_eq]
  exact .of_eq rfl (by simp only [noLogs_append, hlogs, h])

theorem promote_alike (done : Slot) (now : Tick) (h : LogAlike s u) : LogAlike (promote done now s) (promote done now u) := by
  have hsend := fun len => (triggerSend_alike done.other len now h).setSlot done.other .sending
  have hlen : u.loadedLen done.other = s.loadedLen done.other := h.reads (State.loadedLen · done.other)
  obtain ⟨l, tr, h⟩ := h
  unfold promote
  rw [hlen]
  cases s.loadedLen done.other with
  | none => exact .of_eq rfl h
  | some len => exact (hsend len).update fun t => { t with txqueue := s.txqueue - 1, lasttx := .startedByCompletion done.other }

theorem retire_alike (now : Tick) (h : LogAlike s u) : LogAlike (retire now s) (retire now u) := by
  unfold retire
  rw [h.reads State.sendingSlot]
  cases s.sendingSlot with
  | none => exact h.log _ _
  | some done => exact promote_alike done now ((checkLastTx_alike done h).setSlot done .free)

theorem txDone_alike (now : Tick) (h : LogAlike s u) : LogAlike (txDone now s) (txDone now u) := by
  obtain ⟨htsr, hread⟩ := h.chipRead .tsr
  obtain ⟨hncr, hreads⟩ := hread.chipRead .ncr
  unfold txDone
  dsimp only
  rw [htsr, hncr, h.reads State.cfg]
  exact txStats_alike _ _ (retire_alike now hreads)

theorem txError_alike (now : Tick) (h : LogAlike s u) : LogAlike (txError now s) (txError now u) := by
  obtain ⟨htsr, hread⟩ := h.chipRead .tsr
  unfold txError
  dsimp only
  rw [htsr, hread.reads State.cfg]
  have hlog := hread.log (.txErrorClass (s.chipRead .tsr).1) (.txErrorClass (s.chipRead .tsr).1)
  split
  · exact txDone_alike now hlog
  · exact (((hlog.count _ _).countIf _ _).countIf _ _).countIf _ _

/-! ### Receive -/

/-- Iterations that go on alike, deliver alike, and leave states alike. -/
structure WalkedAlike (a b : Walked) : Prop where
  more : b.more = a.more
  got  : b.got = a.got
  st   : LogAlike a.st b.st

theorem deliver_alike (this : Byte) (n : Int) (h : LogAlike s u) : PairAlike (deliver this n s) (deliver this n u) := by
  obtain ⟨hgrant, hget⟩ := h.getBuffer n.toNat
  unfold deliver
  dsimp only
  rw [hgrant, hget.reads State.cfg]
  split
  · exact ⟨rfl, ((hget.blockIn _ _).count _ _).count _ _⟩
  · exact ⟨rfl, (hget.count _ _).log _ _⟩

theorem advance_alike (next : Byte) (h : LogAlike s u) : LogAlike (advance next s) (advance next u) := by
  obtain ⟨l, tr, h⟩ := h
  exact .of_eq rfl (by simp [advance, h])

theorem resync_alike (rxing this next : Byte) (computed : Int) (h : LogAlike s u) :
    LogAlike (resync rxing this next computed s) (resync rxing this next computed u) := by
  obtain ⟨l, tr, h⟩ := h
  exact .of_eq rfl (by simp [resync, h])

theorem statusError_alike (status : Byte) (h : LogAlike s u) : LogAlike (statusError status s) (statusError status u) := by
  unfold statusError
  rw [h.reads State.cfg]
  exact ((((h.count _ _).countIf _ _).countIf _ _).countIf _ _).log _ _

theorem handleFrame_alike (rxing this : Byte) (hdr : Hdr) (h : LogAlike s u) :
    WalkedAlike (handleFrame rxing this hdr s) (handleFrame rxing this hdr u) := by
  unfold handleFrame
  rw [h.reads State.cfg]
  dsimp only
  split
  · exact ⟨rfl, rfl, resync_alike _ _ _ _ h⟩
  · split
    · exact ⟨rfl, rfl, advance_alike _ (((h.count _ _).count _ _).log _ _)⟩
    · split
      · obtain ⟨hgot, hst⟩ := deliver_alike this (payloadLen s.cfg hdr) h
        exact ⟨rfl, hgot, advance_alike _ hst⟩
      · exact ⟨rfl, rfl, advance_alike _ (statusError_alike _ h)⟩

theorem walkOne_alike (h : LogAlike s u) : WalkedAlike (walkOne s) (walkOne u) := by
  obtain ⟨hcurr, hread⟩ := h.chipRead .curr
  unfold walkOne
  dsimp only
  rw [hcurr, hread.reads State.cfg, hread.reads State.currentPage]
  split
  · exact ⟨rfl, rfl, hread.raise _⟩
  · cases (s.chipRead .curr).2.currentPage with
    | none => exact ⟨rfl, rfl, hread.raise _⟩
    | some this =>
      obtain ⟨hhdr, hget⟩ := hread.getHeader this
      dsimp only
      rw [hhdr]
      split
      · exact ⟨rfl, rfl, hread⟩
      · exact handleFrame_alike _ _ _ hget

theorem walk_alike (n : Nat) (h : LogAlike s u) : PairAlike (walk n s) (walk n u) := by
  induction n generalizing s u with
  | zero => exact ⟨rfl, h⟩
  | succ n ih =>
    obtain ⟨hmore, hgot, hst⟩ := walkOne_alike h
    obtain ⟨hrest, hend⟩ := ih hst
    simp only [walk]
    rw [hmore, hgot, hrest]
    split
    · exact ⟨rfl, hend⟩
    · exact ⟨rfl, hst⟩

theorem drain_alike (h : LogAlike s u) : PairAlike (drain s) (drain u) := by
  unfold drain
  rw [h.reads State.cfg]
  exact walk_alike _ h

/-! ### Overrun -/

theorem overrunStop_alike (h : LogAlike s u) : PairAlike (overrunStop s) (overrunStop u) := by
  obtain ⟨hcr, hread⟩ := (h.count .rxOverErrors 1).chipRead .cr
  unfold overrunStop
  dsimp only
  rw [hcr, hread.reads State.cfg]
  exact ⟨rfl, ((hread.chipWrite _ _).emit _).chipWrites _⟩

theorem resendTest_alike (b : Bool) (h : LogAlike s u) : PairAlike (resendTest b s) (resendTest b u) := by
  cases b with
  | false => exact ⟨rfl, h⟩
  | true =>
    obtain ⟨hisr, hread⟩ := h.chipRead .isr
    refine ⟨?_, hread⟩
    simp only [resendTest, if_true, hisr, hread.reads State.cfg]

theorem overrunRestart_alike (h : LogAlike s u) : LogAlike (overrunRestart s) (overrunRestart u) := by
  unfold overrunRestart
  rw [h.reads State.cfg]
  exact h.chipWrites _

theorem overrunFinish_alike (a b : Bool) (h : LogAlike s u) : LogAlike (overrunFinish a b s) (overrunFinish a b u) := by
  have hack : LogAlike (s.chipWrites [(.isr, s.cfg.chipMap.isrOvw), (.tcr, s.cfg.chipMap.tcrNormal)])
      (u.chipWrites [(.isr, u.cfg.chipMap.isrOvw), (.tcr, u.cfg.chipMap.tcrNormal)]) := by
    rw [h.reads State.cfg]; exact h.chipWrites _
  unfold overrunFinish
  dsimp only
  rw [hack.reads State.cfg]
  split
  · exact (hack.chipWrite _ _).log _ _
  · exact hack.log _ _

theorem overrunRecover_alike (h : LogAlike s u) : LogAlike (overrunRecover s) (overrunRecover u) := by
  obtain ⟨hwas, hstop⟩ := overrunStop_alike h
  obtain ⟨hmust, htest⟩ := resendTest_alike (overrunStop s).1 hstop
  have hdrain := (drain_alike (overrunRestart_alike htest)).2
  unfold overrunRecover
  dsimp only
  rw [hwas, hmust]
  exact hdrain.andThen (overrunFinish_alike _ _ hdrain)

/-! ### The dispatcher -/

theorem foldCounter_alike (r : ChipReg) (c : Counter) (h : LogAlike s u) :
    LogAlike (foldCounter r c s) (foldCounter r c u) := by
  obtain ⟨hval, hread⟩ := h.chipRead r
  unfold foldCounter
  dsimp only
  rw [hval]
  exact hread.count c _

theorem counterDrain_alike (h : LogAlike s u) : LogAlike (counterDrain s) (counterDrain u) :=
  foldCounter_alike _ _ (foldCounter_alike _ _ (foldCounter_alike _ _ h))

theorem routeReceive_alike (v : Byte) (h : LogAlike s u) : LogAlike (routeReceive v s) (routeReceive v u) := by
  unfold routeReceive
  rw [h.reads State.cfg]
  dsimp only
  split
  · exact overrunRecover_alike h
  · split
    · exact (drain_alike h).2
    · exact h

theorem routeTransmit_alike (v : Byte) (now : Tick) (h : LogAlike s u) :
    LogAlike (routeTransmit v now s) (routeTransmit v now u) := by
  unfold routeTransmit
  rw [h.reads State.cfg]
  dsimp only
  split
  · exact txDone_alike now h
  · split
    · exact txError_alike now h
    · exact h

theorem routeCounters_alike (v : Byte) (h : LogAlike s u) : LogAlike (routeCounters v s) (routeCounters v u) := by
  unfold routeCounters
  rw [h.reads State.cfg]
  split
  · exact counterDrain_alike h
  · exact h

theorem ackAndRearm_alike (v : Byte) (h : LogAlike s u) : LogAlike (ackAndRearm v s) (ackAndRearm v u) := by
  obtain ⟨l, tr, h⟩ := h
  rw [ackAndRearm_eq, ackAndRearm_eq]
  exact .of_eq rfl (by simp only [noLogs_append, h])

theorem serviceRound_alike (now : Tick) (v : Byte) (h : LogAlike s u) :
    LogAlike (serviceRound now v s) (serviceRound now v u) := by
  have hrx := routeReceive_alike v h
  have hcounters := routeCounters_alike v (routeTransmit_alike v now hrx)
  unfold serviceRound
  simp only [routeRemote_eq]
  exact hrx.andThen (ackAndRearm_alike v hcounters)

theorem pollCauses_alike (h : LogAlike s u) : PairAlike (pollCauses s) (pollCauses u) := h.preempt.chipRead .isr

theorem serviceLoop_alike (now : Tick) (k : Nat) (h : LogAlike s u) :
    LogAlike (serviceLoop now k s) (serviceLoop now k u) := by
  induction k generalizing s u with
  | zero =>
    obtain ⟨hv, hpoll⟩ := pollCauses_alike h
    simp only [serviceLoop]
    rw [hv]
    split
    · exact hpoll
    · exact (hpoll.chipWrite _ _).log _ _
  | succ k ih =>
    obtain ⟨hv, hpoll⟩ := pollCauses_alike h
    simp only [serviceLoop]
    rw [hv]
    split
    · exact hpoll
    · have hround := serviceRound_alike now (pollCauses s).1 hpoll
      exact hround.andThen (ih hround)

theorem dispatchIrq_alike (now : Tick) (h : LogAlike s u) : LogAlike (dispatchIrq now s) (dispatchIrq now u) := by
  have hentry : LogAlike s.irqEntry u.irqEntry := by
    obtain ⟨l, tr, h⟩ := h
    exact .of_eq rfl (by simp [State.irqEntry, h])
  have hloop := serviceLoop_alike now s.cfg.maxService hentry
  unfold dispatchIrq
  rw [h.reads State.cfg]
  exact hloop.andThen ((hloop.update fun s => { s with inHandler := false }).finish _ _)

/-! ### Every operation -/

/-- The same refusal, or next states alike. -/
inductive OutcomeAlike : Host.Outcome State Fault Refusal → Host.Outcome State Fault Refusal → Prop
  | next {s u : State} (h : LogAlike s u) : OutcomeAlike (.next s) (.next u)
  | refused (r : Refusal) : OutcomeAlike (.refused r) (.refused r)

theorem exec_alike (i : Instr) (h : LogAlike s u) : OutcomeAlike (exec i s) (exec i u) := by
  cases i with
  | init start => exact .next ((initialise_alike start h).finish _ _)
  | openInst => exact .next (((initialise_alike true h).update fun s => { s with isOpen := true }).finish _ _)
  | closeInst =>
    refine .next (LogAlike.finish ?_ _ _)
    rw [h.reads State.cfg]
    exact (h.chipWrites _).update fun s => { s with isOpen := false, rxEnabled := false }
  | submit len =>
    simp only [exec, execSubmit, h.reads State.cfg]
    split
    · exact .refused _
    · exact .next (submitFrame_alike len h)
  | setMulticast md =>
    simp only [exec, execSetMulticast]
    cases McMode.ofBits? md with
    | none => exact .refused _
    | some mode => exact .next (setMulticast_alike mode h)
  | getStats =>
    simp only [exec, execGetStats, h.reads State.stats]
    exact .next (h.finish _ _)
  | irq =>
    simp only [exec, execIrq, h.reads irqGuard, h.reads State.operands]
    cases irqGuard s with
    | none => exact .next (dispatchIrq_alike _ h)
    | some k => exact .next ((h.log _ _).finish _ _)
  | txCollision =>
    simp only [exec, execTxCollision, h.reads retrySlot, h.reads State.cfg]
    cases retrySlot s with
    | none => exact .next ((h.log _ _).finish _ _)
    | some i => exact .next ((h.chipWrites _).finish _ _)
  | drain =>
    obtain ⟨hgot, hst⟩ := drain_alike h
    simp only [exec, execDrain, hgot]
    exact .next (hst.returning _)
  | txDone =>
    simp only [exec, execTxDone, h.reads State.operands]
    exact .next ((txDone_alike _ h).returning _)
  | txError =>
    simp only [exec, execTxError, h.reads State.operands]
    exact .next ((txError_alike _ h).returning _)
  | counterDrain => exact .next ((counterDrain_alike h).returning _)
  | rdcAck => exact .next (h.returning _)
  | overrunRecover => exact .next ((overrunRecover_alike h).returning _)
  | mcRebuild =>
    have htable : mcTable u.mcMode u.mcList = mcTable s.mcMode s.mcList := h.reads fun s => mcTable s.mcMode s.mcList
    simp only [exec, execMcRebuild, htable]
    exact .next ((mcRebuild_alike h).returning _)
  | triggerSend =>
    simp only [exec, execTriggerSend, h.reads State.operands]
    exact .next ((triggerSend_alike _ _ _ h).returning _)
  | txTimeoutReset =>
    simp only [exec, execTxTimeoutReset, h.reads State.operands]
    exact .next ((txTimeoutReset_alike _ h).returning _)

/-- Settles O18, by `exec_alike`: the marker is read by the two logs of TX_DONE's slot part and by nothing else. -/
theorem lastTxReachesOnlyLogs : Obligations.LastTxReachesOnlyLogs := by
  unfold Obligations.LastTxReachesOnlyLogs
  intro i s l
  have halike := exec_alike i (LogAlike.intro (s := s) l s.trace rfl)
  constructor
  · intro t ht
    rw [ht] at halike
    generalize exec i { s with lasttx := l } = o at halike ⊢
    cases halike with
    | next h =>
      obtain ⟨l', tr, htr⟩ := h
      exact ⟨_, rfl, rfl, htr⟩
  · intro r hr
    rw [hr] at halike
    generalize exec i { s with lasttx := l } = o at halike ⊢
    cases halike
    rfl

end Sys2Proof.Machine
end

section
/-! The receive ring's bounds (20_memory.md R65): CURR is tested in every iteration, before the ring pointer is read. -/

namespace Sys2Proof.Machine

/-- A DRAIN that reads CURR outside the ring ends with its fault, whatever the ring pointer is. -/
theorem drain_outside {s : State} (hn : 1 ≤ s.cfg.maxRxIter) (h : inRing s.cfg (s.env.chipAnswer .curr).1 = false) :
    drain s = (0, s.currRead.raise .currOutOfRing) := by
  have hw := walkOne_outside s h
  rw [drain, walk_stop s hn (by rw [hw]), hw]

/-- Settles O45: CURR outside the ring is `drain_outside`, an unset ring pointer `drain_unset`, and the step from either end is
`faultIsFinal`'s. -/
theorem drainFaults : Obligations.DrainFaults := by
  unfold Obligations.DrainFaults
  intro s hn
  obtain ⟨-, hstep, -, -⟩ := faultIsFinal
  refine ⟨fun hout => ?_, fun hin hp => ?_, fun k => hstep _ k rfl⟩
  · simp only [exec, execDrain, drain_outside hn hout]
    rfl
  · simp only [exec, execDrain, drain_unset hn hp hin]
    rfl

end Sys2Proof.Machine
end

section
/-! The command word (30_encoding.md R86 to R91): encoder and decoder are inverse (`decode_eq_ok_iff`), so the words that decode are
the ones R90 calls legal (`legalWord_iff`); then which of them a step runs and which it refuses. -/

namespace Sys2Proof

/-! ### Encoder and decoder -/

/-- No stray field, field by field: each is zero or belongs to the operation (R86). -/
theorem strayField_eq_false_iff (op : Op) (w : Word) :
    strayField op w = false ↔
      reservedField w = 0#5 ∧ (stField w = true → op = .INIT) ∧ (mdField w ≠ 0#2 → op = .SET_MULTICAST)
        ∧ (lenField w ≠ 0#16 → op = .SUBMIT) := by
  have hst : (op ≠ .INIT → stField w = false) ↔ (stField w = true → op = .INIT) := by
    rw [← Bool.not_eq_true]
    exact not_imp_not
  simp only [strayField, Bool.or_eq_false_iff, Bool.and_eq_false_imp, bne_iff_ne, bne_eq_false_iff_eq, and_assoc]
  exact and_congr_right fun _ => and_congr hst (and_congr not_imp_comm not_imp_comm)

theorem Op.code_injective : Function.Injective Op.code := by
  intro a b h
  have hab : Op.ofCode? a.code = Op.ofCode? b.code := congrArg Op.ofCode? h
  simpa using hab

theorem assembleOperands_encode (i : Instr) : assembleOperands i.op (encode i) = i := by
  obtain ⟨-, hst, hmd, -, hlen⟩ := Laws.EncodeFields.of_layout i
  cases i <;> simp only [assembleOperands, Instr.op, hst, hmd, hlen, Instr.stBit, Instr.mdBits, Instr.lenBits]

theorem strayField_encode (i : Instr) : strayField i.op (encode i) = false := by
  obtain ⟨-, hst, hmd, hres, hlen⟩ := Laws.EncodeFields.of_layout i
  rw [strayField_eq_false_iff, hst, hmd, hres, hlen]
  cases i <;> simp [Instr.op, Instr.stBit, Instr.mdBits, Instr.lenBits]

theorem decode_encode {i : Instr} (h : i.wellFormed = true) : decode (encode i) = .ok i := by
  have hop : Op.ofCode? (opField (encode i)) = some i.op := by simp [encode]
  simp [decode, hop, strayField_encode, assembleOperands_encode, h]

/-- With no stray field the assembled operands keep every field of the word. -/
theorem encode_assembleOperands {op : Op} {w : Word} (hop : op.code = opField w) (hs : strayField op w = false) :
    encode (assembleOperands op w) = w := by
  obtain ⟨hres, hst, hmd, hlen⟩ := (strayField_eq_false_iff op w).1 hs
  have hbits : (assembleOperands op w).stBit = stField w ∧ (assembleOperands op w).mdBits = mdField w
      ∧ (assembleOperands op w).lenBits = lenField w := by
    cases op <;> simp_all [assembleOperands, Instr.stBit, Instr.mdBits, Instr.lenBits]
  obtain ⟨hst', hmd', hlen'⟩ := hbits
  rw [encode, assembleOperands_op, hst', hmd', hlen', hop, layout_fields w hres]

/-- What a decoded word is: its operation's code, no stray field, and the operands assembled from it. -/
theorem decode_ok {w : Word} {i : Instr} (h : decode w = .ok i) :
    i.op.code = opField w ∧ strayField i.op w = false ∧ i = assembleOperands i.op w ∧ i.wellFormed = true := by
  unfold decode at h
  split at h
  · cases h
  · rename_i op hop
    split_ifs at h with hs hwf
    cases h
    rw [assembleOperands_op]
    exact ⟨Op.code_of_ofCode? hop, by simpa using hs, rfl, hwf⟩

/-- The decoder is the encoder's inverse, on the well-formed instructions. -/
theorem decode_eq_ok_iff {w : Word} {i : Instr} : decode w = .ok i ↔ i.wellFormed = true ∧ encode i = w := by
  constructor
  · intro h
    obtain ⟨hop, hs, hi, hwf⟩ := decode_ok h
    exact ⟨hwf, by rw [hi]; exact encode_assembleOperands hop hs⟩
  · rintro ⟨hwf, rfl⟩
    exact decode_encode hwf

/-- Settles O2: the two directions of `decode_eq_ok_iff`. -/
theorem decodeEncodeAgree : Obligations.DecodeEncodeAgree := by
  unfold Obligations.DecodeEncodeAgree
  exact ⟨fun _ h => decode_encode h, fun _ _ h => decode_eq_ok_iff.1 h⟩

/-- Settles O1: by `decode_eq_ok_iff`, each word is the encoding of its instruction. -/
theorem opcodeWordsDecode : Obligations.OpcodeWordsDecode := by
  unfold Obligations.OpcodeWordsDecode
  simp only [decode_eq_ok_iff]
  decide

/-! ### The legal words -/

/-- A word that spells operation `op`, whoever issues it (R86, R90). -/
structure LegalWord (op : Op) (w : Word) : Prop where
  opcode : op.code = opField w
  fields : strayField op w = false
  mode   : mdField w ≠ 3#2

theorem assembleOperands_wellFormed_iff {op : Op} {w : Word} (hs : strayField op w = false) :
    (assembleOperands op w).wellFormed = true ↔ mdField w ≠ 3#2 := by
  obtain ⟨-, -, hmd, -⟩ := (strayField_eq_false_iff op w).1 hs
  by_cases hop : op = .SET_MULTICAST
  · subst hop
    simp [assembleOperands, Instr.wellFormed]
  · have hzero : mdField w = 0#2 := by_contra fun h => hop (hmd h)
    rw [hzero]
    cases op <;> simp [assembleOperands, Instr.wellFormed] at hop ⊢

/-- The words that decode are the legal ones. -/
theorem legalWord_iff {op : Op} {w : Word} : LegalWord op w ↔ ∃ i, decode w = .ok i ∧ i.op = op := by
  constructor
  · rintro ⟨hop, hs, hmode⟩
    exact ⟨assembleOperands op w,
      decode_eq_ok_iff.2 ⟨(assembleOperands_wellFormed_iff hs).2 hmode, encode_assembleOperands hop hs⟩,
      assembleOperands_op op w⟩
  · rintro ⟨i, hd, rfl⟩
    obtain ⟨hop, hs, hi, hwf⟩ := decode_ok hd
    rw [hi] at hwf
    exact ⟨hop, hs, (assembleOperands_wellFormed_iff hs).1 hwf⟩

/-- The legal words in the word's own fields, which is how R90 names the illegal ones. -/
theorem legalWord_iff_fields {op : Op} {w : Word} (hop : op.code = opField w) :
    LegalWord op w ↔
      reservedField w = 0#5 ∧ (stField w = true → opField w = 0x01#8) ∧ (mdField w ≠ 0#2 → opField w = 0x05#8)
        ∧ (lenField w ≠ 0#16 → opField w = 0x04#8) ∧ mdField w ≠ 3#2 := by
  have hcode (o : Op) : opField w = o.code ↔ op = o := by rw [← hop, Op.code_injective.eq_iff]
  have hfields := strayField_eq_false_iff op w
  rw [← hcode, ← hcode, ← hcode] at hfields
  constructor
  · rintro ⟨-, hs, hmode⟩
    obtain ⟨hres, hst, hmd, hlen⟩ := hfields.1 hs
    exact ⟨hres, hst, hmd, hlen, hmode⟩
  · rintro ⟨hres, hst, hmd, hlen, hmode⟩
    exact ⟨hop, hfields.2 ⟨hres, hst, hmd, hlen⟩, hmode⟩

/-- The opcodes of the map (R89). -/
theorem Op.code_ranges (op : Op) :
    (0x01 ≤ op.code.toNat ∧ op.code.toNat ≤ 0x06) ∨ (0x10 ≤ op.code.toNat ∧ op.code.toNat ≤ 0x11)
      ∨ (0x20 ≤ op.code.toNat ∧ op.code.toNat ≤ 0x28) := by
  cases op <;> decide

end Sys2Proof

namespace Sys2Proof.Machine

/-! ### The issuer -/

theorem internalCall_iff (s : State) :
    internalCall s = true ↔ s.isOpen = true ∧ s.inHandler = true ∧ s.irqMasked = false := by
  simp [internalCall, and_assoc]

theorem mayIssue_iff (iss : Issuer) (op : Op) (s : State) :
    mayIssue iss op s = true ↔ (op.cls = .internal → iss = .harness ∧ internalCall s = true) := by
  unfold mayIssue
  cases op.cls <;> simp

/-! ### The step -/

section
variable {s : State} {c : Command} {rest : List Command}

/-- The step on a word that spells no operation. -/
theorem step_undecodable {e : DecodeError} (hf : s.fault = none) (ha : admitted s.cfg = true) (hc : s.cmds = c :: rest)
    (hd : decode c.word = .error e) : step s = .refused .illegalCommandWord := by
  rw [step_command hf ha hc, hd]

/-- The step on an operation its issuer may not issue. -/
theorem step_notIssuable {i : Instr} (hf : s.fault = none) (ha : admitted s.cfg = true) (hc : s.cmds = c :: rest)
    (hd : decode c.word = .ok i) (hm : ¬ mayIssue c.issuer i.op s = true) : step s = .refused .internalOpcode := by
  rw [step_command hf ha hc, hd]
  exact if_neg hm

end

/-- Settles O4: for a harness and an internal operation, `mayIssue` is the premise. -/
theorem internalCallPremise : Obligations.InternalCallPremise := by
  unfold Obligations.InternalCallPremise
  intro s c rest i hf ha hc hiss hd hcls
  have hmay : mayIssue c.issuer i.op s = true ↔ s.isOpen = true ∧ s.inHandler = true ∧ s.irqMasked = false := by
    rw [mayIssue_iff, internalCall_iff]
    simp [hcls, hiss]
  rw [← hmay]
  exact ⟨stepRunsDecodedCommand s c rest i hf ha hc hd, step_notIssuable hf ha hc hd⟩

/-- Settles O3: the opcodes of the map leave out the reserved ranges (`Op.code_ranges`); a word that decodes is legal field by field
(`legalWord_iff_fields`), so only its issuer can have it refused; a word illegal in no way decodes, and what it decodes to is what
it encodes (`decode_eq_ok_iff`). -/
theorem illegalWordsRefused : Obligations.IllegalWordsRefused := by
  unfold Obligations.IllegalWordsRefused
  constructor
  · intro w hres op hop
    have hmap := op.code_ranges
    rw [hop] at hmap
    omega
  intro s c rest hf ha hc illegal
  constructor
  · intro hill
    cases hd : decode c.word with
    | error e => exact ⟨_, step_undecodable hf ha hc hd⟩
    | ok i =>
      have hlegal : LegalWord i.op c.word := legalWord_iff.2 ⟨i, hd, rfl⟩
      obtain ⟨hres, hst, hmd, hlen, hmode⟩ := (legalWord_iff_fields hlegal.opcode).1 hlegal
      refine ⟨_, step_notIssuable hf ha hc hd fun hm => ?_⟩
      obtain h | h | ⟨h, h'⟩ | ⟨h, h'⟩ | ⟨h, h'⟩ | h | ⟨hiss, op, hop, hcls⟩ := hill
      · exact h i.op hlegal.opcode
      · exact h hres
      · exact h' (hst h)
      · exact h' (hmd h)
      · exact h' (hlen h)
      · exact hmode h
      · obtain rfl : op = i.op := Op.code_injective (hop.trans hlegal.opcode.symm)
        exact hiss ((mayIssue_iff _ _ _).1 hm hcls).1
  · intro hleg hiss
    simp only [illegal, not_or, not_and, not_not, not_forall, not_exists] at hleg
    obtain ⟨⟨op, hop⟩, hres, hst, hmd, hlen, hmode, hcls⟩ := hleg
    have hlegal : LegalWord op c.word := (legalWord_iff_fields hop).2 ⟨hres, hst, hmd, hlen, hmode⟩
    obtain ⟨i, hd, rfl⟩ := legalWord_iff.1 hlegal
    have hmay : mayIssue c.issuer i.op s = true := (mayIssue_iff _ _ _).2 fun h => absurd h (hcls hiss i.op hop)
    exact ⟨i, (decode_eq_ok_iff.1 hd).2, stepRunsDecodedCommand s c rest i hf ha hc hd hmay⟩

end Sys2Proof.Machine
end

section
/-! Bring-up and lifecycle (40_bringup.md): INIT, OPEN, CLOSE and GET_STATS as exact next states, and INIT run twice. The second run
finds every register it writes at the value it writes (`Shadow.putAll_putAll`). -/

namespace Sys2Proof.Machine

/-! ### Writing the same registers again -/

/-- A register the list writes ends at a value that does not depend on what it held before. -/
theorem Shadow.get_putAll_written (sh sh' : Shadow) {ws : List (ChipReg × Byte)} {r : ChipReg} (h : ∃ w ∈ ws, w.1 = r) :
    (sh.putAll ws).get r = (sh'.putAll ws).get r := by
  induction ws generalizing sh sh' with
  | nil => simp at h
  | cons x rest ih =>
    rw [Shadow.putAll_cons, Shadow.putAll_cons]
    by_cases hrest : ∃ w ∈ rest, w.1 = r
    · exact ih _ _ hrest
    · have hnone : ∀ w ∈ rest, w.1 ≠ r := fun w hw hr => hrest ⟨w, hw, hr⟩
      obtain rfl : x.1 = r := by simpa [hrest] using h
      rw [Shadow.get_putAll_other _ hnone, Shadow.get_putAll_other _ hnone, Shadow.get_put_same, Shadow.get_put_same]

/-- Writing a list of registers twice leaves what writing it once leaves. -/
theorem Shadow.putAll_putAll (sh : Shadow) (ws : List (ChipReg × Byte)) : (sh.putAll ws).putAll ws = sh.putAll ws := by
  refine Shadow.ext_get fun r => ?_
  by_cases h : ∃ w ∈ ws, w.1 = r
  · exact Shadow.get_putAll_written _ _ h
  · exact Shadow.get_putAll_other _ fun w hw hr => h ⟨w, hw, hr⟩

/-! ### INIT and OPEN -/

theorem exec_init (start : Bool) (s : State) :
    exec (.init start) s = .next ((initialise start s).finish .INIT .unit) := rfl

theorem exec_openInst (s : State) :
    exec .openInst s = .next ({ initialise true s with isOpen := true }.finish .OPEN .unit) := rfl

/-- Settles O19: INIT's next state is `initialise_eq`'s with the result, and `initWrites` lists the writes in R122's order. -/
theorem initResult : Obligations.InitResult := by
  unfold Obligations.InitResult
  intro start s m a t writes
  have hslot2 : (if Slot.two.exists s.cfg then SlotState.free else s.slot2)
      = if s.cfg.numTxSlots = .two then .free else s.slot2 := by simp [Slot.exists]
  have hwrites : initWrites start s = writes := rfl
  rw [exec_init, initialise_eq, hslot2, hwrites]
  simp only [State.finish_eq, State.emit, State.returning, t]

/-- INIT's writes depend only on fields INIT leaves alone. -/
theorem initWrites_initialised (start : Bool) (s : State) (op : Op) (v : RetVal) :
    initWrites start ((initialise start s).finish op v) = initWrites start s := by
  rw [initialise_eq]
  rfl

/-- INIT on the state INIT and a result leave changes the trace alone: each register it writes holds its value
(`Shadow.putAll_putAll`), and so does each field it sets, slot 2 where it exists. -/
theorem initialise_initialised (start : Bool) (s : State) (op : Op) (v : RetVal) :
    initialise start ((initialise start s).finish op v) =
      { (initialise start s).finish op v with
          trace := ((initialise start s).finish op v).trace ++ writeEvents (initWrites start s) } := by
  rw [initialise_eq _ start, initWrites_initialised, initialise_eq s start]
  simp only [State.finish_eq, State.emit, State.returning, Shadow.putAll_putAll]
  split_ifs <;> rfl

/-- Settles O20: the second run changes the trace alone, and its writes are the first's (`initialise_initialised`). -/
theorem initIdempotent : Obligations.InitIdempotent := by
  unfold Obligations.InitIdempotent
  intro start s
  refine ⟨_, _, writeEvents (initWrites start s) ++ [.result .INIT .unit], exec_init start s, exec_init start _, ?_, ?_, ?_⟩
  · rw [initialise_initialised]
    rfl
  · rw [initialise_eq, ← List.append_assoc]
    rfl
  · rw [initialise_initialised, ← List.append_assoc]
    rfl

/-- Settles O21: both operations are `initialise true` and a result, and OPEN sets its flag in between. -/
theorem openResult : Obligations.OpenResult := by
  unfold Obligations.OpenResult
  intro s
  refine ⟨_, exec_init true s, ?_⟩
  have hbefore : ((initialise true s).finish .INIT .unit).trace.dropLast = (initialise true s).trace := List.dropLast_concat
  rw [exec_openInst, hbefore]
  rfl

/-! ### CLOSE and GET_STATS -/

/-- Settles O23: two register writes, two flags and the result. -/
theorem closeResult : Obligations.CloseResult := by
  unfold Obligations.CloseResult
  intro s
  simp only [exec, execClose, State.chipWrites_eq]
  simp [State.emit, State.returning]

/-- Settles O24: GET_STATS is its result event and its returned value, and each carries the counters. -/
theorem getStatsResult : Obligations.GetStatsResult := by
  unfold Obligations.GetStatsResult
  exact fun _ => rfl

end Sys2Proof.Machine
end

section
/-! The transmit scheduler (41_transmit.md): SUBMIT by the branch it takes, TX_DONE as what `retire` does past the two status reads
and what TX_STATS adds, and TRIGGER_SEND, TX_TIMEOUT_RESET and TX_COLLISION as exact next states. -/

namespace Sys2Proof.Machine

/-! ### The slots -/

/-- Settles O41: an occupied slot counts one, and `busy` asks it of every slot that exists. -/
theorem slotBound : Obligations.SlotBound := by
  unfold Obligations.SlotBound
  intro s
  cases hn : s.cfg.numTxSlots with
  | one =>
    have htwo : Slot.two.exists s.cfg = false := by simp [Slot.exists, hn]
    by_cases h1 : s.slot1 = .free <;> simp [occupiedCount, State.busy, SlotCount.toNat, hn, htwo, h1]
  | two =>
    have htwo : Slot.two.exists s.cfg = true := Slot.exists_of_two hn _
    by_cases h1 : s.slot1 = .free <;> by_cases h2 : s.slot2 = .free <;>
      simp [occupiedCount, State.busy, SlotCount.toNat, hn, htwo, h1, h2]

/-! ### The trigger and the timeout reset -/

/-- Settles O29: `triggerSend_eq` with the side-band operands. -/
theorem triggerSendResult : Obligations.TriggerSendResult := by
  unfold Obligations.TriggerSendResult
  intro s writes
  simp only [exec, execTriggerSend, triggerSend_eq]
  rfl

theorem exec_txTimeoutReset (s : State) :
    exec .txTimeoutReset s = .next ((txTimeoutReset s.operands.now s).returning .unit) := rfl

/-- Settles O35: TX_TIMEOUT_RESET initializes the reset card (`txTimeoutReset_eq`), and INIT(true) there appends one event more, its
result. -/
theorem txTimeoutResetResult : Obligations.TxTimeoutResetResult := by
  unfold Obligations.TxTimeoutResetResult
  intro s isr media
  refine ⟨_, exec_init true s.cardReset, ?_⟩
  rw [exec_txTimeoutReset, txTimeoutReset_eq]
  generalize initialise true s.cardReset = t
  have hbefore : (t.finish .INIT .unit).trace.dropLast = t.trace := List.dropLast_concat
  rw [hbefore]
  rfl

/-! ### Submission -/

theorem exec_submit {len : Half} {s : State} (hlen : len.toNat ≤ s.cfg.ethFrameLen) :
    exec (.submit len) s = .next (submitFrame len s) :=
  if_neg (Nat.not_lt.2 hlen)

theorem exec_submit_oversize {len : Half} {s : State} (hlen : s.cfg.ethFrameLen < len.toNat) :
    exec (.submit len) s = .refused .oversizeFrame :=
  if_pos hlen

theorem submitFrame_closed (len : Half) {s : State} (ho : s.isOpen = false) :
    submitFrame len s = (s.log .submitClosed).finish .SUBMIT (.submit .busy) := by
  simp only [submitFrame, ho, Bool.not_false, if_true]

/-- A busy adapter before the timeout takes no frame (R134). -/
theorem submitFrame_early (len : Half) {s : State} (ho : s.isOpen = true) (hb : s.busy = true)
    (he : elapsed s.operands.now s.transStart < s.cfg.txTimeout) :
    submitFrame len s = s.finish .SUBMIT (.submit .busy) := by
  simp only [submitFrame, ho, hb, he, Bool.not_true, Bool.false_eq_true, if_true, if_false]

/-- A busy adapter from the timeout on is reset, then takes the frame (R134, R138). -/
theorem submitFrame_late (len : Half) {s : State} (ho : s.isOpen = true) (hb : s.busy = true)
    (he : s.cfg.txTimeout ≤ elapsed s.operands.now s.transStart) :
    submitFrame len s = criticalSection len .retransmitting (txTimeoutReset s.operands.now s) := by
  simp only [submitFrame, ho, hb, Nat.not_lt.2 he, Bool.not_true, Bool.false_eq_true, if_true, if_false]

/-- An open adapter with a free slot takes the frame. -/
theorem submitFrame_free (len : Half) {s : State} {i : Slot} (ho : s.isOpen = true) (hi : s.freeSlot = some i) :
    submitFrame len s = criticalSection len .queued s := by
  have hb : s.busy = false := by
    rw [← Bool.not_eq_true, ← freeSlot_eq_none, hi]
    exact Option.some_ne_none i
  simp only [submitFrame, ho, hb, Bool.not_true, Bool.false_eq_true, if_false]

theorem exists_freeSlot {s : State} (hb : s.busy = false) : ∃ i, s.freeSlot = some i :=
  Option.ne_none_iff_exists'.1 fun h => by rw [freeSlot_eq_none.1 h] at hb; cases hb

/-- Settles O31: the two branches of SUBMIT that enter no critical section. -/
theorem submitTurnedAway : Obligations.SubmitTurnedAway := by
  unfold Obligations.SubmitTurnedAway
  intro len s hlen
  rw [exec_submit hlen]
  refine ⟨fun ho => ?_, fun ho hb he => ?_⟩
  · rw [submitFrame_closed len ho]
    simp [State.emit, State.returning]
  · rw [submitFrame_early len ho hb he]
    rfl

/-- Settles O32: the free slot's branch of SUBMIT is `criticalSection_sends`, and the frame is in memory by `read_frameCopied`. -/
theorem submitSends : Obligations.SubmitSends := by
  unfold Obligations.SubmitSends
  intro len s i hlen ho ht hi m n guarded sent trigger
  have hfree : s.freeSlot = some i := freeSlot_eq_some.2 hi
  refine ⟨frameCopied i len s, ?_, fun k => read_frameCopied s i len, fun a => read_frameCopied_other s i len⟩
  rw [exec_submit hlen, submitFrame_free len ho hfree, criticalSection_sends s len .queued ho ht hfree]
  rfl

/-- Settles O33: as O32, by `criticalSection_queues`. -/
theorem submitQueues : Obligations.SubmitQueues := by
  unfold Obligations.SubmitQueues
  intro len s i hlen ho ht hi m n guarded sent
  have hfree : s.freeSlot = some i := freeSlot_eq_some.2 hi
  refine ⟨frameCopied i len s, ?_, fun k => read_frameCopied s i len, fun a => read_frameCopied_other s i len⟩
  rw [exec_submit hlen, submitFrame_free len ho hfree, criticalSection_queues s len .queued ho ht hfree]
  rfl

/-- A frame shorter than `ethZlen` is sent with length `ethZlen` (R131). -/
theorem sendLen_short {cfg : Cfg} {len : Half} (h : len.toNat ≤ cfg.ethZlen) : sendLen cfg len = BitVec.ofNat 16 cfg.ethZlen := by
  rw [sendLen, max_eq_right h]

/-- Settles O30: the length alone decides, and the trigger writes the padded length's two bytes. -/
theorem submitLengthAdmission : Obligations.SubmitLengthAdmission := by
  unfold Obligations.SubmitLengthAdmission
  refine ⟨fun _ _ => exec_submit_oversize, fun _ _ hlen => ⟨_, exec_submit hlen⟩, fun s ho hb ht hz => ?_⟩
  obtain ⟨i, hi⟩ := exists_freeSlot hb
  have hsent : sendLen s.cfg 0#16 = 60#16 := by rw [sendLen_short (Nat.zero_le _), hz]
  refine ⟨_, exec_submit (Nat.zero_le _), ?_⟩
  rw [submitFrame_free _ ho hi, criticalSection_sends s _ _ ho ht hi, hsent]
  simp [triggerWrites, lowByte, highByte]

/-- The value a submission returns shows in its result event and its returned value alone. -/
theorem criticalSection_result (len : Half) (res res' : SubmitResult) {s : State} {i : Slot} (hi : s.freeSlot = some i) :
    criticalSection len res' s =
      { criticalSection len res s with
          trace := (criticalSection len res s).trace.dropLast ++ [.result .SUBMIT (.submit res')]
          returned := .submit res' } := by
  have hf : s.maskIrq.preempt.freeSlot = some i := by rw [State.preempt_eq, ← hi]; rfl
  simp only [criticalSection, loadSlot, hf, State.finish_eq, State.emit, State.returning, List.dropLast_concat]

/-- What the last operation returned does not reach a submission. -/
theorem criticalSection_returning (len : Half) (res : SubmitResult) (v : RetVal) {s : State} {i : Slot}
    (ho : s.isOpen = true) (ht : s.txing = false) (hi : s.freeSlot = some i) :
    criticalSection len res (s.returning v) = criticalSection len res s := by
  rw [criticalSection_sends s len res ho ht hi, criticalSection_sends (s.returning v) len res ho ht hi]
  rfl

/-- Settles O34: the reset leaves an open idle adapter with slot 1 free, and the two submissions differ in their result alone
(`criticalSection_result`). -/
theorem submitAfterTimeout : Obligations.SubmitAfterTimeout := by
  unfold Obligations.SubmitAfterTimeout
  intro len s hlen ho hb he
  have hkept := txTimeoutReset_keeps s s.operands.now
  have ht : (txTimeoutReset s.operands.now s).txing = false := by rw [txTimeoutReset_eq, initialise_eq]
  have hfree := txTimeoutReset_freeSlot s.operands.now s
  rw [exec_submit hlen, submitFrame_late len ho hb he, exec_txTimeoutReset]
  generalize txTimeoutReset s.operands.now s = r at hkept ht hfree ⊢
  have hopen : r.isOpen = true := hkept.isOpen.trans ho
  have hagain : exec (.submit len) (r.returning .unit) = .next (criticalSection len .queued r) := by
    rw [exec_submit (by rwa [State.returning_cfg, hkept.cfg]), submitFrame_free (s := r.returning .unit) len hopen hfree,
      criticalSection_returning len .queued .unit hopen ht hfree]
  have hsent := criticalSection_sends r len .queued hopen ht hfree
  exact ⟨_, _, rfl, hagain, by rw [hsent]; rfl, by rw [hsent], by rw [hsent],
    congrArg _ (criticalSection_result len _ _ hfree)⟩

/-! ### Completion -/

theorem LastTx.started_iff (l : LastTx) (i : Slot) :
    l.started i = true ↔ l = .startedBySubmit i ∨ l = .startedByCompletion i := by
  simp [LastTx.started]

/-- What TX_DONE reads from TSR. -/
def State.readTsr (s : State) : Byte := (s.env.chipAnswer .tsr).1

/-- What TX_DONE reads from NCR. -/
def State.readNcr (s : State) : Byte := ((s.env.chipAnswer .tsr).2.chipAnswer .ncr).1

/-- The state past TX_DONE's two status reads (R147). -/
def State.statusRead (s : State) : State :=
  { s with env := ((s.env.chipAnswer .tsr).2.chipAnswer .ncr).2
           trace := s.trace ++ [.chipR .tsr s.readTsr, .chipR .ncr s.readNcr] }

/-- The counters are those of `s` and what TX_STATS adds for the status TX_DONE reads there (R152). -/
def State.TxCounted (s : State) (stats : Stats) : Prop :=
  ∀ c : Counter, stats.get c =
    (s.stats.get c + txCounts s.cfg.chipMap s.readTsr (collisionCount s.cfg.chipMap s.readNcr) c) % 2 ^ s.cfg.cntWidth

/-- A completion with no slot in `sending` only logs (R146). -/
theorem retire_unexpected {s : State} (now : Tick) (h : s.sendingSlot = none) :
    retire now s = s.log (.unexpectedTxDone s.lasttx) := by
  simp only [retire, h]

/-- Retiring a slot counts nothing. -/
theorem retire_stats (now : Tick) (s : State) : (retire now s).stats = s.stats := by
  cases hi : s.sendingSlot with
  | none => rw [retire_unexpected now hi]; rfl
  | some i =>
    cases hl : s.loadedLen i.other with
    | none => rw [retire_idle s now hi hl]
    | some len => rw [retire_promotes s now hi hl]

theorem txDone_eq (now : Tick) (s : State) :
    txDone now s = txStats s.readTsr (collisionCount s.cfg.chipMap s.readNcr) (retire now s.statusRead) := by
  have hread : ((s.chipRead .tsr).2.chipRead .ncr).2 = s.statusRead := by
    simp only [State.chipRead, State.statusRead, State.readTsr, State.readNcr, List.append_assoc, List.singleton_append]
  rw [← hread]
  rfl

/-- TX_DONE retires the slot past its status reads, and counts. -/
theorem exec_txDone {s : State} (hfit : CountersFit s) :
    ∃ stats : Stats, exec .txDone s = .next { retire s.operands.now s.statusRead with stats := stats, returned := .unit }
      ∧ s.TxCounted stats := by
  have hcfg : (retire s.operands.now s.statusRead).cfg = s.cfg := by rw [retire_transmit]; rfl
  have hstats : (retire s.operands.now s.statusRead).stats = s.stats := retire_stats _ _
  refine ⟨(txDone s.operands.now s).stats, ?_, fun c => ?_⟩
  · rw [exec, execTxDone, txDone_eq, txStats_frame]
    rfl
  · rw [txDone_eq, txStats_get _ _ _ (by rw [hstats, hcfg]; exact hfit), hstats, hcfg]

/-- Settles O36: past the status reads the slot is retired (`exec_txDone`), with no other loaded by `retire_idle`. -/
theorem txDoneGoesIdle : Obligations.TxDoneGoesIdle := by
  unfold Obligations.TxDoneGoesIdle
  intro s i hfit hi hl tsr ncr f collided
  obtain ⟨stats, hexec, hcounted⟩ := exec_txDone hfit
  refine ⟨stats, ?_, hcounted⟩
  rw [hexec, retire_idle s.statusRead s.operands.now (sendingSlot_eq_some.2 hi) (loadedLen_eq_none.2 hl)]
  simp only [← LastTx.started_iff]
  rfl

/-- Settles O37: as O36, with the other slot loaded by `retire_promotes`. -/
theorem txDonePromotes : Obligations.TxDonePromotes := by
  unfold Obligations.TxDonePromotes
  intro s i len hfit hi htwo hl tsr ncr f collided trigger
  obtain ⟨stats, hexec, hcounted⟩ := exec_txDone hfit
  refine ⟨stats, ?_, hcounted⟩
  have hsending : s.sendingSlot = some i := sendingSlot_eq_some.2 (hi.imp_right fun ⟨h, h1, h2⟩ => ⟨h, h1, htwo, h2⟩)
  have hloaded : s.loadedLen i.other = some len := loadedLen_eq_some.2 ⟨Slot.exists_of_two htwo _, hl⟩
  rw [hexec, retire_promotes s.statusRead s.operands.now hsending hloaded]
  simp only [← LastTx.started_iff]
  rfl

/-- Settles O38: as O36, with no slot to retire (`retire_unexpected`). -/
theorem txDoneUnexpected : Obligations.TxDoneUnexpected := by
  unfold Obligations.TxDoneUnexpected
  intro s hfit h1 h2 tsr ncr f collided
  obtain ⟨stats, hexec, hcounted⟩ := exec_txDone hfit
  refine ⟨stats, ?_, hcounted⟩
  rw [hexec, retire_unexpected _ (s := s.statusRead) (sendingSlot_eq_none.2 ⟨h1, h2⟩)]
  simp [State.emit, State.statusRead, tsr, ncr, State.readTsr, State.readNcr]

/-- On an idle adapter that meets the slot invariants every existing slot is free (10_state.md R38). -/
theorem SlotInv.free_of_idle {s : State} (h : SlotInv s) (ht : s.txing = false) :
    ∀ i : Slot, i.exists s.cfg = true → s.slot i = .free := by
  cases h.shape with
  | idle _ _ hfree => exact hfree
  | sending _ _ ht' => rw [ht] at ht'; cases ht'
  | queued _ _ _ ht' => rw [ht] at ht'; cases ht'

/-- Settles O39: the idle adapter sends from slot 1 (`criticalSection_sends`), slot 2 not being loaded TX_DONE goes idle again
(O36), and with PTX set TX_STATS counts a packet and no error. -/
theorem submitTxDoneRoundTrip : Obligations.SubmitTxDoneRoundTrip := by
  unfold Obligations.SubmitTxDoneRoundTrip
  intro len s hlen ho hb ht hinv hfit
  have hall := hinv.free_of_idle ht
  have hfree : s.freeSlot = some .one := freeSlot_eq_some.2 (.inl ⟨rfl, hall .one rfl⟩)
  refine ⟨_, exec_submit hlen, fun hptx => ?_⟩
  have hsub := (submitFrame_free len ho hfree).trans (criticalSection_sends s len .queued ho ht hfree)
  generalize submitFrame len s = t at hptx hsub ⊢
  obtain ⟨hcfg, hslot1, hslot2, hqueue, hstats⟩ :
      t.cfg = s.cfg ∧ t.slot1 = .sending ∧ t.slot2 = s.slot2 ∧ t.txqueue = s.txqueue ∧ t.stats = s.stats := by
    rw [hsub]; exact ⟨rfl, rfl, rfl, rfl, rfl⟩
  have hloaded : ∀ l, ¬ (Slot.two.exists t.cfg = true ∧ t.slot2 = .loaded l) := by
    rintro l ⟨hex, hl⟩
    rw [hslot2, show s.slot2 = .free from hall .two (hcfg ▸ hex)] at hl
    cases hl
  have hfit' : CountersFit t := by rw [CountersFit, hcfg, hstats]; exact hfit
  obtain ⟨stats, hexec, hcounted⟩ := txDoneGoesIdle t .one hfit' (.inl ⟨rfl, hslot1⟩) hloaded
  have hpackets := hcounted .txPackets
  have herrors := hcounted .txErrors
  rw [hcfg] at hptx
  simp only [txCounts, hcfg, hstats, if_pos hptx] at hpackets herrors
  rw [Nat.add_zero, Nat.mod_eq_of_lt (hfit .txErrors)] at herrors
  exact ⟨_, hexec, hpackets, (hall .one rfl).symm, hslot2, rfl, hqueue, herrors⟩

/-! ### Collisions -/

/-- An abort or an underrun is logged and left to TX_DONE (43_interrupt.md R196). -/
theorem exec_txError_aborted {s : State} (h : txAborted s.cfg.chipMap (s.env.chipAnswer .tsr).1 = true) :
    exec .txError s = exec .txDone ((s.chipRead .tsr).2.log (.txErrorClass (s.env.chipAnswer .tsr).1)) := by
  have hdone : txError s.operands.now s =
      txDone s.operands.now ((s.chipRead .tsr).2.log (.txErrorClass (s.env.chipAnswer .tsr).1)) := if_pos h
  simp only [exec, execTxError, hdone]
  rfl

/-- Settles O56: TX_ERROR's read of ABT hands over to TX_DONE (`exec_txError_aborted`), whose own read of ABT counts the abort and
the 16 collisions, and which with no other slot loaded goes idle and writes no register (O36). -/
theorem sixteenCollisionsAbort : Obligations.SixteenCollisionsAbort := by
  unfold Obligations.SixteenCollisionsAbort
  intro s i hmap hfit hi hl hlisted
  obtain ⟨hfirst, hrest⟩ := Env.chipAnswer_listed hlisted
  obtain ⟨hsecond, -⟩ := Env.chipAnswer_listed hrest
  have haborted : txAborted s.cfg.chipMap (s.env.chipAnswer .tsr).1 = true := by rw [hmap, hfirst]; decide
  obtain ⟨stats, hexec, hcounted⟩ :=
    txDoneGoesIdle ((s.chipRead .tsr).2.log (.txErrorClass (s.env.chipAnswer .tsr).1)) i hfit hi hl
  have habt : hasBit 0x08#8 ChipMap.ns8390.tsrAbt = true := rfl
  have hptx : hasBit 0x08#8 ChipMap.ns8390.tsrPtx = false := rfl
  simp only [State.log_eq_emit, State.emit_env, State.emit_cfg, State.emit_stats, State.chipRead_env, State.chipRead_cfg,
    State.chipRead_stats, hmap, hsecond] at hcounted
  refine ⟨_, (exec_txError_aborted haborted).trans hexec, ?_, ?_, ?_, ?_, rfl, rfl⟩
  · simpa [txCounts, habt] using hcounted .txAbortedErrors
  · simpa [txCounts, habt] using hcounted .collisions
  · simpa [txCounts, hptx] using hcounted .txErrors
  · cases i <;> rfl

/-- Settles O40: TX_COLLISION rewrites and triggers for the slot `retrySlot` names, and logs when it names none. -/
theorem txCollisionResult : Obligations.TxCollisionResult := by
  unfold Obligations.TxCollisionResult
  intro s
  refine ⟨fun i ho ht hi => ?_, fun h => ?_⟩
  · have hretry : retrySlot s = some i := by simp [retrySlot, ho, ht, sendingSlot_eq_some.2 hi]
    simp [exec, execTxCollision, hretry, State.chipWrites_eq, State.emit, State.returning]
  · have hretry : retrySlot s = none := by
      rcases h with ho | ht | hi
      · simp [retrySlot, ho]
      · simp [retrySlot, ht]
      · simp [retrySlot, sendingSlot_eq_none.2 hi]
    simp [exec, execTxCollision, hretry, State.emit, State.returning]

end Sys2Proof.Machine
end

section
/-! The receive ring walker DRAIN (42_receive.md): its computed next page; what it may change in any state, one iteration at a
time; and the exact state after a walk that finds the ring empty at once or after one frame. -/

namespace Sys2Proof.Machine

/-! ### The computed next page -/

/-- The rounding of R13 is the ceiling of the exact quotient; on both sides a division by 0 is 0. -/
theorem ceilDiv_eq_ceil (x : Int) (n : Nat) : ceilDiv x n = ⌈(x : ℚ) / (n : ℚ)⌉ :=
  (Rat.ceil_intCast_div_natCast x n).symm

/-- Settles O42, by `ceilDiv_eq_ceil`. -/
theorem nextFrameRoundsUp : Obligations.NextFrameRoundsUp := by
  unfold Obligations.NextFrameRoundsUp
  intro cfg this count hdoc
  rw [nextFrame, hdoc]
  simp [docNextFrame, ceilDiv_eq_ceil]

/-! ### What DRAIN may change -/

/-- The counters DRAIN may raise (42_receive.md R180). -/
abbrev receiveCounters : List Counter :=
  [.rxPackets, .rxBytes, .rxErrors, .rxDropped, .rxLengthErrors, .rxFifoErrors, .rxFrameErrors, .rxCrcErrors]

/-- The events DRAIN may append: of the Chip's registers it reads CURR and writes BNRY, and it never resets (R167, R168). -/
def Event.allowedInDrain : Event → Prop
  | .chipR r _ => r = .curr
  | .chipW r _ => r = .bnry
  | .resetChip _ => False
  | .getHeader _ _ | .blockIn _ _ | .blockOut _ _ | .getBuffer _ _ | .wait _ | .log _ | .result _ _ => True

/-- `t` is `s` after part of a DRAIN that handed up `n` buffers. -/
structure Drained (n : Nat) (s t : State) : Prop where
  receive   : t = s.withReceive t
  delivered : t.delivered.length = s.delivered.length + n
  shadow    : ∀ r : ChipReg, r ≠ .bnry → t.shadow.get r = s.shadow.get r
  events    : ∃ es, t.trace = s.trace ++ es ∧ ∀ e ∈ es, Event.allowedInDrain e
  stats     : ∀ c : Counter, c ∉ receiveCounters → t.stats.get c = s.stats.get c

namespace Drained

variable {s t u : State}

theorem refl (s : State) : Drained 0 s s := ⟨rfl, rfl, fun _ _ => rfl, ⟨[], by simp, by simp⟩, fun _ _ => rfl⟩

theorem trans {n k : Nat} (h : Drained n s t) (h' : Drained k t u) : Drained (n + k) s u := by
  obtain ⟨es, ht, hes⟩ := h.events
  obtain ⟨fs, hu, hfs⟩ := h'.events
  exact {
    receive := State.withReceive_trans h.receive h'.receive
    delivered := by rw [h'.delivered, h.delivered, Nat.add_assoc]
    shadow := fun r hr => (h'.shadow r hr).trans (h.shadow r hr)
    events := ⟨es ++ fs, by rw [hu, ht, List.append_assoc], fun e he => (List.mem_append.1 he).elim (hes e) (hfs e)⟩
    stats := fun c hc => (h'.stats c hc).trans (h.stats c hc) }

/-- The ring pointer moved and BNRY written, with buffers handed up, events and receive counts. -/
theorem of_release {n : Nat} {p b : Byte} {st : Stats} {bufs : List (List Byte)} {env : Env} {es : List Event}
    (hbufs : bufs.length = s.delivered.length + n) (hes : ∀ e ∈ es, Event.allowedInDrain e)
    (hst : ∀ c : Counter, c ∉ receiveCounters → st.get c = s.stats.get c) :
    Drained n s { s with currentPage := some p, stats := st, shadow := s.shadow.put .bnry b, trace := s.trace ++ es
                         delivered := bufs, env := env } :=
  ⟨rfl, hbufs, fun _ hr => Shadow.get_put_other _ _ hr, ⟨es, rfl, hes⟩, hst⟩

/-- The read of CURR that begins an iteration. -/
theorem currRead (s : State) : Drained 0 s s.currRead :=
  ⟨rfl, rfl, fun _ _ => rfl, ⟨_, rfl, by simp [Event.allowedInDrain]⟩, fun _ _ => rfl⟩

theorem getHeader (s : State) (this : Byte) : Drained 0 s (s.getHeader this).2 :=
  ⟨rfl, rfl, fun _ _ => rfl, ⟨_, rfl, by simp [Event.allowedInDrain]⟩, fun _ _ => rfl⟩

/-- A fault raised in place. -/
theorem raise {n : Nat} (h : Drained n s t) (k : Fault) : Drained n s (t.raise k) :=
  ⟨State.withReceive_trans h.receive rfl, h.delivered, h.shadow, h.events, h.stats⟩

end Drained

/-- A count of a receive counter leaves the others. -/
theorem State.count_get_of_not_receive (s : State) (n : Nat) {c d : Counter} (hd : d ∈ receiveCounters)
    (hc : c ∉ receiveCounters) : (s.count d n).stats.get c = s.stats.get c := by
  rw [State.count_get, if_neg (ne_of_mem_of_not_mem hd hc).symm]

/-- A status failure raises receive counters only. -/
theorem statusError_get_of_not_receive (status : Byte) (s : State) {c : Counter} (hc : c ∉ receiveCounters) :
    (statusError status s).stats.get c = s.stats.get c := by
  obtain ⟨stats, heq, hstats⟩ := statusError_eq s status
  have hne : ∀ d ∈ receiveCounters, c ≠ d := fun d hd => (ne_of_mem_of_not_mem hd hc).symm
  rw [heq]
  simp [hstats, hne]

/-- What is done with one frame: at most one buffer is handed up. -/
theorem handleFrame_drained (rxing this : Byte) (hdr : Hdr) (s : State) :
    (handleFrame rxing this hdr s).got ≤ 1
      ∧ Drained (handleFrame rxing this hdr s).got s (handleFrame rxing this hdr s).st := by
  cases hcons : consistent s.cfg hdr.next (nextFrame s.cfg this hdr.count)
  case false =>
    rw [handleFrame_resync hcons]
    exact ⟨Nat.zero_le 1, .of_release rfl (by simp [Event.allowedInDrain])
      fun _ => s.count_get_of_not_receive 1 (d := .rxErrors) (by decide)⟩
  case true =>
    cases hlen : lengthInRange s.cfg (payloadLen s.cfg hdr)
    case false =>
      rw [handleFrame_length hcons hlen]
      exact ⟨Nat.zero_le 1, .of_release rfl (by simp [Event.allowedInDrain]) fun _ hc =>
        (State.count_get_of_not_receive _ _ (by decide) hc).trans (s.count_get_of_not_receive _ (by decide) hc)⟩
    case true =>
      cases hok : rxOk s.cfg.chipMap hdr.status
      case false =>
        rw [handleFrame_status hcons hlen hok]
        exact ⟨Nat.zero_le 1, .of_release rfl (by simp [Event.allowedInDrain]) fun _ => statusError_get_of_not_receive _ s⟩
      case true =>
        cases hgrant : (s.env.grantAnswer (payloadLen s.cfg hdr).toNat).1
        case false =>
          rw [handleFrame_noBuffer hcons hlen hok hgrant]
          exact ⟨Nat.zero_le 1, .of_release rfl (by simp [Event.allowedInDrain]) fun _ =>
            s.count_get_of_not_receive _ (by decide)⟩
        case true =>
          rw [handleFrame_granted hcons hlen hok hgrant]
          exact ⟨Nat.le_refl 1, .of_release (by simp) (by simp [Event.allowedInDrain]) fun _ hc =>
            (State.count_get_of_not_receive _ _ (by decide) hc).trans (s.count_get_of_not_receive _ (by decide) hc)⟩

/-- One iteration: a fault, an empty ring, or one frame. -/
theorem walkOne_drained (s : State) : (walkOne s).got ≤ 1 ∧ Drained (walkOne s).got s (walkOne s).st := by
  have hread := Drained.currRead s
  cases hr : inRing s.cfg (s.env.chipAnswer .curr).1
  case false =>
    rw [walkOne_outside s hr]
    exact ⟨Nat.zero_le 1, hread.raise _⟩
  case true =>
    cases hp : s.currentPage with
    | none =>
      rw [walkOne_unset s hr hp]
      exact ⟨Nat.zero_le 1, hread.raise _⟩
    | some this =>
      by_cases he : (s.env.chipAnswer .curr).1 = this
      · rw [walkOne_empty s hr hp he]
        exact ⟨Nat.zero_le 1, hread⟩
      · rw [walkOne_frame s hr hp he]
        obtain ⟨hgot, hframe⟩ := handleFrame_drained (s.env.chipAnswer .curr).1 this (s.currRead.getHeader this).1
          (s.currRead.getHeader this).2
        exact ⟨hgot, by simpa only [Nat.zero_add] using (hread.trans (.getHeader _ this)).trans hframe⟩

theorem walk_drained (n : Nat) (s : State) : (walk n s).1 ≤ n ∧ Drained (walk n s).1 s (walk n s).2 := by
  induction n generalizing s with
  | zero => exact ⟨Nat.le_refl 0, .refl s⟩
  | succ n ih =>
    obtain ⟨hgot, hone⟩ := walkOne_drained s
    obtain ⟨hrest, hwalk⟩ := ih (walkOne s).st
    simp only [walk]
    split
    · exact ⟨(Nat.add_le_add hgot hrest).trans_eq (Nat.add_comm 1 n), hone.trans hwalk⟩
    · exact ⟨hgot.trans (Nat.le_add_left 1 n), hone⟩

/-- DRAIN in every state (R159). -/
theorem drain_drained (s : State) : (drain s).1 ≤ s.cfg.maxRxIter ∧ Drained (drain s).1 s (drain s).2 :=
  walk_drained s.cfg.maxRxIter s

/-- Settles O43, by `drain_drained`: each iteration moves the ring pointer with BNRY and hands up at most one buffer. -/
theorem drainFrame : Obligations.DrainFrame := by
  unfold Obligations.DrainFrame
  intro s
  obtain ⟨hn, hreceive, hdelivered, hshadow, ⟨es, htrace, hes⟩, hstats⟩ := drain_drained s
  refine ⟨(drain s).2.returning (.delivered (drain s).1), es, (drain s).1, rfl, ?_, hn, hdelivered, hshadow,
    fun _ _ h => hes _ h, fun _ _ h => hes _ h, fun _ h => hes _ h, hstats⟩
  rw [← htrace]
  exact congrArg (State.returning · (.delivered (drain s).1)) hreceive

/-! ### A walk that ends at once -/

/-- Settles O44, by `walkOne_empty`. -/
theorem drainEmptyRing : Obligations.DrainEmptyRing := by
  unfold Obligations.DrainEmptyRing
  intro s this hn hp hr he
  have hone := walkOne_empty s (this := this) (by rw [he]; exact hr) hp he
  have hdrain : drain s = (0, s.currRead) := by rw [drain, walk_stop s hn (by rw [hone]), hone]
  rw [exec, execDrain, hdrain, ← he]
  rfl

/-! ### A walk of one frame -/

/-- The state in which the frame at `this` is handled: CURR read, then the header. -/
abbrev State.headerRead (s : State) (this : Byte) : State := (s.currRead.getHeader this).2

/-- DRAIN of one frame that leaves the ring empty: the state `handleFrame` leaves, and CURR read again. -/
theorem exec_drain_one {s t : State} {this p : Byte} {k : Nat} {es : List Event} (hn : 2 ≤ s.cfg.maxRxIter)
    (hp : s.currentPage = some this) (hr : inRing s.cfg (s.env.chipAnswer .curr).1 = true)
    (hne : (s.env.chipAnswer .curr).1 ≠ this)
    (hframe : handleFrame (s.env.chipAnswer .curr).1 this ((s.env.chipAnswer .curr).2.headerAnswer this).1
      (s.headerRead this) = ⟨true, k, t⟩)
    (htrace : t.trace = (s.headerRead this).trace ++ es) (hpage : t.currentPage = some p) (hring : inRing t.cfg p = true)
    (hcurr : (t.env.chipAnswer .curr).1 = p) :
    exec .drain s = .next
      { t with env := (t.env.chipAnswer .curr).2
               trace := s.trace ++ ([.chipR .curr (s.env.chipAnswer .curr).1,
                 .getHeader this ((s.env.chipAnswer .curr).2.headerAnswer this).1] ++ es ++ [.chipR .curr p])
               returned := .delivered k } := by
  have hone : walkOne s = ⟨true, k, t⟩ := (walkOne_frame s hr hp hne).trans hframe
  rw [exec, execDrain, drain_one hn hone hpage hring hcurr, htrace]
  simp [State.getHeader, State.returning]

/-- Every counter after one count. -/
theorem State.count_stats_get (s : State) (d c : Counter) (n : Nat) :
    (s.count d n).stats.get c = if c = d then (s.stats.get c + n) % 2 ^ s.cfg.cntWidth else s.stats.get c := by
  rw [State.count_get]
  exact ite_congr rfl (fun h => by rw [h]) fun _ => rfl

/-- Every counter after counts of two different ones. -/
theorem State.count_count_stats_get (s : State) {d e : Counter} (hde : d ≠ e) (c : Counter) (m n : Nat) :
    ((s.count d m).count e n).stats.get c =
      if c = d then (s.stats.get c + m) % 2 ^ s.cfg.cntWidth
      else if c = e then (s.stats.get c + n) % 2 ^ s.cfg.cntWidth
      else s.stats.get c := by
  rw [State.count_stats_get, State.count_stats_get, State.count_cfg]
  by_cases hd : c = d
  · rw [if_neg (hd.trans_ne hde), if_pos hd, if_pos hd]
  · simp only [if_neg hd]

/-- Settles O46: the frame is handled by `handleFrame_granted` or `handleFrame_noBuffer`. -/
theorem drainOneGoodFrame : Obligations.DrainOneGoodFrame := by
  unfold Obligations.DrainOneGoodFrame
  intro s this hn hp curr hdr len granted left copied hr hne hoff hin hmin hmax hok
  have hcons : consistent s.cfg hdr.next (nextFrame s.cfg this hdr.count) = true := consistent_iff.2 ⟨hoff, hin⟩
  have hlen : lengthInRange s.cfg (payloadLen s.cfg hdr) = true := decide_eq_true ⟨hmin, hmax⟩
  refine ⟨fun hgrant hcurr => ?_, fun hgrant hcurr => ?_⟩
  · exact ⟨_, ((s.count .rxPackets 1).count .rxBytes len.toNat).stats, (List.length_map _).trans List.length_range,
      exec_drain_one hn hp hr hne (handleFrame_granted (s := s.headerRead this) hcons hlen hok hgrant) rfl rfl hin hcurr,
      fun c => s.count_count_stats_get (by decide) c 1 len.toNat⟩
  · exact ⟨(s.count .rxDropped 1).stats,
      exec_drain_one hn hp hr hne (handleFrame_noBuffer (s := s.headerRead this) hcons hlen hok hgrant) rfl rfl hin hcurr,
      fun c => s.count_stats_get .rxDropped c 1⟩

/-- Settles O47: the frame is handled by `handleFrame_length` or `handleFrame_status`. -/
theorem drainOneBadFrame : Obligations.DrainOneBadFrame := by
  unfold Obligations.DrainOneBadFrame
  intro s this hn hp m curr hdr left len inRange after hr hne hoff hin hcurr
  have hcons : consistent s.cfg hdr.next (nextFrame s.cfg this hdr.count) = true := consistent_iff.2 ⟨hoff, hin⟩
  refine ⟨fun hout => ?_, fun hrange hbad => ?_⟩
  · have hlen : lengthInRange s.cfg (payloadLen s.cfg hdr) = false := decide_eq_false hout
    refine ⟨((s.count .rxErrors 1).count .rxLengthErrors 1).stats,
      exec_drain_one hn hp hr hne (handleFrame_length (s := s.headerRead this) hcons hlen) rfl rfl hin hcurr, fun c => ?_⟩
    rw [s.count_count_stats_get (by decide), ite_or]
  · have hlen : lengthInRange s.cfg (payloadLen s.cfg hdr) = true := decide_eq_true hrange
    obtain ⟨stats, heq, hstats⟩ := statusError_eq (s.headerRead this) hdr.status
    have hframe := handleFrame_status (rxing := curr) (s := s.headerRead this) hcons hlen hbad
    rw [heq] at hframe
    exact ⟨stats, exec_drain_one hn hp hr hne hframe rfl rfl hin hcurr, hstats⟩

/-- Settles O48: the header is not consistent, so the ring is resynchronized (`handleFrame_resync`). -/
theorem drainResyncs : Obligations.DrainResyncs := by
  unfold Obligations.DrainResyncs
  intro s this hn hp curr hdr left computed hr hne hbad hcurr
  have hcons : consistent s.cfg hdr.next computed = false := by
    rw [← Bool.not_eq_true, consistent_iff]
    rintro ⟨⟨d, hd, hoff⟩, hin⟩
    rcases hbad with hnone | hout
    · exact hnone d hd hoff
    · exact Bool.false_ne_true (hout.symm.trans hin)
  exact ⟨(s.count .rxErrors 1).stats,
    exec_drain_one hn hp hr hne (handleFrame_resync (s := s.headerRead this) hcons) rfl rfl hr hcurr,
    fun c => s.count_stats_get .rxErrors c 1⟩

end Sys2Proof.Machine
end

section
/-! The interrupt dispatcher IRQ (43_interrupt.md): the handlers TX_ERROR, COUNTER_DRAIN and RDC_ACK; the guard; and the service
loop as the polls that end it and the rounds between them. -/

namespace Sys2Proof.Machine

/-! ### The handlers of this family -/

/-- Settles O58: the acknowledgement is the dispatcher's, so the handler is the identity. -/
theorem rdcAckResult : Obligations.RdcAckResult := by
  unfold Obligations.RdcAckResult
  exact fun _ => rfl

theorem foldCounter_stats_get (r : ChipReg) (c d : Counter) (s : State) :
    (foldCounter r c s).stats.get d =
      if d = c then (s.stats.get d + (s.env.chipAnswer r).1.toNat) % 2 ^ s.cfg.cntWidth else s.stats.get d :=
  (s.chipRead r).2.count_stats_get c d _

theorem foldCounter_eq (r : ChipReg) (c : Counter) (s : State) :
    foldCounter r c s =
      { s with stats := (foldCounter r c s).stats, env := (s.env.chipAnswer r).2
               trace := s.trace ++ [.chipR r (s.env.chipAnswer r).1] } := rfl

/-- Settles O57: three reads (`foldCounter_eq`), each into a counter of its own (`foldCounter_stats_get`). -/
theorem counterDrainResult : Obligations.CounterDrainResult := by
  unfold Obligations.CounterDrainResult
  intro s a b c
  refine ⟨(counterDrain s).stats, ?_, fun k => ?_⟩
  · rw [exec, execCounterDrain, counterDrain]
    generalize hfirst : foldCounter .cntr0 .rxFrameErrors s = t
    generalize hsecond : foldCounter .cntr1 .rxCrcErrors t = u
    rw [foldCounter_eq] at hfirst hsecond ⊢
    subst hsecond hfirst
    simp [State.returning, a, b, c]
  · rw [counterDrain, foldCounter_stats_get, foldCounter_stats_get, foldCounter_stats_get]
    cases k <;> rfl

/-- What TX_ERROR counts for an error that is no abort (R196). -/
def countTxError (tsr : Byte) (s : State) : State :=
  (((s.count .txErrors 1).countIf (hasBit tsr s.cfg.chipMap.tsrCrs) .txCarrierErrors).countIf
    (hasBit tsr s.cfg.chipMap.tsrCdh) .txHeartbeatErrors).countIf (hasBit tsr s.cfg.chipMap.tsrOwc) .txWindowErrors

theorem countTxError_frame (tsr : Byte) (s : State) : countTxError tsr s = s.withStats (countTxError tsr s) :=
  State.withStats_trans (t := s.count .txErrors 1) rfl (State.withStats_trans (State.countIf_frame _ _ _)
    (State.withStats_trans (State.countIf_frame _ _ _) (State.countIf_frame _ _ _)))

theorem countTxError_get (tsr : Byte) (s : State) (c : Counter) :
    (countTxError tsr s).stats.get c =
      if c = .txErrors ∨ (c = .txCarrierErrors ∧ hasBit tsr s.cfg.chipMap.tsrCrs = true)
        ∨ (c = .txHeartbeatErrors ∧ hasBit tsr s.cfg.chipMap.tsrCdh = true)
        ∨ (c = .txWindowErrors ∧ hasBit tsr s.cfg.chipMap.tsrOwc = true)
      then (s.stats.get c + 1) % 2 ^ s.cfg.cntWidth else s.stats.get c := by
  simp only [countTxError, State.countIf_get, State.count_get, State.countIf_cfg, State.count_cfg]
  cases c <;> simp

/-- An error that is no abort is logged and counted (R196). -/
theorem exec_txError_counted {s : State} (h : txAborted s.cfg.chipMap (s.env.chipAnswer .tsr).1 = false) :
    exec .txError s = .next ((countTxError (s.env.chipAnswer .tsr).1
      ((s.chipRead .tsr).2.log (.txErrorClass (s.env.chipAnswer .tsr).1))).returning .unit) := by
  have hcounted : txError s.operands.now s = countTxError (s.env.chipAnswer .tsr).1
      ((s.chipRead .tsr).2.log (.txErrorClass (s.env.chipAnswer .tsr).1)) := if_neg (Bool.eq_false_iff.1 h)
  rw [exec, execTxError, hcounted]

/-- Settles O55: an abort or an underrun by `exec_txError_aborted`, any other error by `exec_txError_counted`. -/
theorem txErrorResult : Obligations.TxErrorResult := by
  unfold Obligations.TxErrorResult
  intro s m tsr logged
  have hlogged : (s.chipRead .tsr).2.log (.txErrorClass tsr) = logged :=
    congrArg (fun es => { logged with trace := es }) (List.append_assoc _ _ _)
  refine ⟨fun h => ⟨_, rfl, ?_⟩, fun h => ⟨(countTxError tsr logged).stats, ?_, countTxError_get tsr logged⟩⟩
  · rw [exec_txError_aborted h, hlogged]
    rfl
  · rw [exec_txError_counted h, hlogged, countTxError_frame]
    rfl

/-! ### The guard -/

theorem irqGuard_eq_none_iff (s : State) :
    irqGuard s = none ↔ s.isOpen = true ∧ s.inHandler = false ∧ s.irqMasked = false := by
  unfold irqGuard
  cases s.isOpen <;> cases s.inHandler <;> cases s.irqMasked <;> simp

/-- A guarded IRQ logs and returns (R188). -/
theorem exec_irq_guarded {s : State} {k : LogKind} (h : irqGuard s = some k) :
    exec .irq s = .next { s with trace := s.trace ++ [.log k, .result .IRQ .unit], returned := .unit } := by
  simp [exec, execIrq, h, State.irqTurnedAway, State.emit, State.returning]

theorem exec_irq_serviced {s : State} (h : irqGuard s = none) : exec .irq s = .next (dispatchIrq s.operands.now s) := by
  simp only [exec, execIrq, h]

/-- Settles O50: the guard's three answers, each by `exec_irq_guarded`. -/
theorem irqGuards : Obligations.IrqGuards := by
  unfold Obligations.IrqGuards
  intro s turnedAway
  refine ⟨fun ho => ?_, fun ho hh => ?_, fun ho hh hm => ?_⟩
  · exact exec_irq_guarded (by simp [irqGuard, ho])
  · exact exec_irq_guarded (by simp [irqGuard, ho, hh])
  · exact exec_irq_guarded (by simp [irqGuard, ho, hh, hm])

/-- Past the guard the flag ends set exactly when a handler raised a fault (R199, 60_exceptions.md R250). -/
theorem dispatchIrq_inHandler (now : Tick) (s : State) :
    (dispatchIrq now s).inHandler = (dispatchIrq now s).fault.isSome := by
  have hloop := serviceLoop_handlers s.irqEntry now s.cfg.maxService
  unfold dispatchIrq
  generalize serviceLoop now s.cfg.maxService s.irqEntry = t at hloop ⊢
  cases hf : t.fault with
  | none => rw [State.andThen_of_none hf]; exact (congrArg Option.isSome hf).symm
  | some k => rw [State.andThen_of_fault (by simp [hf]), hf, hloop]; rfl

/-- Past the guard IRQ changes only its handlers' fields and the flag. -/
theorem dispatchIrq_frame (now : Tick) (s : State) :
    dispatchIrq now s = { s.withHandlers (dispatchIrq now s) with inHandler := (dispatchIrq now s).inHandler } :=
  have h := dispatchIrq_eq s now
  h.trans (congrArg (fun b => { s.withHandlers (dispatchIrq now s) with inHandler := b }) (congrArg State.inHandler h).symm)

/-- Settles O54: a guarded IRQ keeps the flag (`exec_irq_guarded`); past the guard, `dispatchIrq_frame` and
`dispatchIrq_inHandler`. -/
theorem irqExitClearsFlag : Obligations.IrqExitClearsFlag := by
  unfold Obligations.IrqExitClearsFlag
  intro s
  cases hg : irqGuard s with
  | some k =>
    refine ⟨_, exec_irq_guarded hg, rfl, fun _ ho hh hm => ?_, fun _ => rfl⟩
    rw [(irqGuard_eq_none_iff s).2 ⟨ho, hh, hm⟩] at hg
    cases hg
  | none =>
    obtain ⟨ho, hh, hm⟩ := (irqGuard_eq_none_iff s).1 hg
    have hflag := dispatchIrq_inHandler s.operands.now s
    refine ⟨_, exec_irq_serviced hg, dispatchIrq_frame _ _, fun _ _ _ _ => ⟨fun hf => ?_, fun hf => ?_⟩, ?_⟩
    · rw [hflag, hf]; rfl
    · rw [hflag]; exact Option.isSome_iff_ne_none.2 hf
    · simp [ho, hh, hm]

/-! ### Polls -/

theorem State.irqExit_eq (s : State) :
    s.irqExit = { s with inHandler := false, trace := s.trace ++ [.result .IRQ .unit], returned := .unit } := rfl

/-- The first poll past the guard, with `n` nested `IRQ` steps in it (R189, R191 to R193). -/
theorem pollCauses_irqEntry {s : State} (ho : s.isOpen = true) :
    (pollCauses s.irqEntry).2 =
      { s with inHandler := true
               env := { (s.env.chipAnswer .isr).2 with nested := s.env.nested.tail }
               shadow := s.shadow.put .cr s.cfg.chipMap.crWindow0
               trace := s.trace ++ [.chipW .cr s.cfg.chipMap.crWindow0]
                 ++ nestedEvents (some .irqReentrant) (s.env.nested.headD 0) ++ [.chipR .isr (s.env.chipAnswer .isr).1]
               returned := if s.env.nested.headD 0 = 0 then s.returned else .unit } := by
  rw [pollCauses_eq, irqGuard_irqEntry s ho]
  simp [irqEntry_eq]

/-- A poll inside the handler that finds no cause ends the IRQ, whatever the budget left (R190, R199). -/
theorem serviceLoop_exits {s : State} (now : Tick) (k : Nat) (hf : s.fault = none) (ho : s.isOpen = true)
    (hh : s.inHandler = true) (h : (s.env.chipAnswer .isr).1 = 0x00#8) :
    (serviceLoop now k s).andThen State.irqExit =
      { s with inHandler := false
               env := { (s.env.chipAnswer .isr).2 with nested := s.env.nested.tail }
               trace := s.trace ++ nestedEvents (some .irqReentrant) (s.env.nested.headD 0)
                 ++ [.chipR .isr 0x00#8, .result .IRQ .unit]
               returned := .unit } := by
  have hg : irqGuard s = some .irqReentrant := by simp [irqGuard, ho, hh]
  rw [serviceLoop_noCause s now k h, State.andThen_of_none (by rw [pollCauses_eq]; exact hf), pollCauses_eq, hg, h]
  simp [State.irqExit_eq]

/-- Settles O51: the first poll ends the loop (`serviceLoop_exits`). -/
theorem irqWithoutCause : Obligations.IrqWithoutCause := by
  unfold Obligations.IrqWithoutCause
  intro s hf ho hh hm h n
  rw [exec_irq_serviced ((irqGuard_eq_none_iff s).2 ⟨ho, hh, hm⟩), dispatchIrq,
    serviceLoop_exits (s := s.irqEntry) _ _ hf ho rfl h, ← hh]
  rfl

/-! ### One serviced round -/

/-- A mask taken at least when one of its bits is pending selects what it selects when always taken. -/
theorem and_ite_of_hasBit {c : Prop} [Decidable c] {v mask : Byte} (h : hasBit v mask = true → c) :
    v &&& (if c then mask else 0x00#8) = v &&& mask := by
  split
  · rfl
  · rename_i hc
    have hnone : v &&& mask = 0x00#8 := by simpa [hasBit] using mt h hc
    rw [hnone, BitVec.and_zero]

/-- A round acknowledges PTX and not TXE when both are pending, and OVW and RST never (R185). -/
theorem and_handledCauses (m : ChipMap) (v : Byte) :
    v &&& handledCauses m v =
      v &&& ((m.isrPrx ||| m.isrRxe) ||| (if hasBit v m.isrPtx then m.isrPtx else m.isrTxe) ||| m.isrCnt ||| m.isrRdc) := by
  have htx : v &&& (if hasBit v m.isrPtx then m.isrPtx else if hasBit v m.isrTxe then m.isrTxe else 0x00#8)
      = v &&& (if hasBit v m.isrPtx then m.isrPtx else m.isrTxe) := by
    split
    · rfl
    · exact and_ite_of_hasBit id
  simp only [handledCauses, BitVec.and_or_distrib_left, htx, and_ite_of_hasBit id,
    and_ite_of_hasBit (mask := m.isrPrx ||| m.isrRxe) (fun h => Bool.or_eq_true_iff.2 (.inr h))]

theorem and_handledCauses_ns8390 (v : Byte) :
    v &&& handledCauses ChipMap.ns8390 v = if v &&& 0x02#8 ≠ 0x00#8 then v &&& 0x67#8 else v &&& 0x6D#8 := by
  have hptx : hasBit v ChipMap.ns8390.isrPtx = true ↔ v &&& 0x02#8 ≠ 0x00#8 := bne_iff_ne
  rw [and_handledCauses]
  simp only [hptx]
  split <;> rfl

/-- The acknowledgement and the re-arm, as the writes of a round (R185, R186). -/
def ackWrites (m : ChipMap) (v : Byte) : List (ChipReg × Byte) :=
  (if v &&& handledCauses m v = 0x00#8 then [] else [(.isr, v &&& handledCauses m v)]) ++ [(.cr, m.crStart)]

theorem ackAndRearm_writes (v : Byte) (s : State) : ackAndRearm v s = s.chipWrites (ackWrites s.cfg.chipMap v) := by
  unfold ackAndRearm ackWrites
  dsimp only
  split <;> rfl

/-- `i` run in `s` leaves `t`, its returned value apart, which the dispatcher does not pass on. -/
def Ran (i : Instr) (s t : State) : Prop := ∃ r, exec i s = .next { t with returned := r }

section
variable {m : ChipMap} {now : Tick} {s : State}

theorem routeReceive_ran (v : Byte) (hm : s.cfg.chipMap = m) :
    if hasBit v m.isrOvw then Ran .overrunRecover s (routeReceive v s)
    else if hasBit v (m.isrPrx ||| m.isrRxe) then Ran .drain s (routeReceive v s) else routeReceive v s = s := by
  subst hm
  unfold routeReceive
  dsimp only
  split
  · exact ⟨_, rfl⟩
  · split
    · exact ⟨_, rfl⟩
    · rfl

theorem routeTransmit_ran (v : Byte) (hm : s.cfg.chipMap = m) (hnow : s.operands.now = now) :
    if hasBit v m.isrPtx then Ran .txDone s (routeTransmit v now s)
    else if hasBit v m.isrTxe then Ran .txError s (routeTransmit v now s) else routeTransmit v now s = s := by
  subst hm hnow
  unfold routeTransmit
  dsimp only
  split
  · exact ⟨_, rfl⟩
  · split
    · exact ⟨_, rfl⟩
    · rfl

theorem routeCounters_ran (v : Byte) (hm : s.cfg.chipMap = m) :
    if hasBit v m.isrCnt then Ran .counterDrain s (routeCounters v s) else routeCounters v s = s := by
  subst hm
  unfold routeCounters
  split
  · exact ⟨_, rfl⟩
  · rfl

theorem routeRemote_ran (v : Byte) (hm : s.cfg.chipMap = m) :
    if hasBit v m.isrRdc then Ran .rdcAck s (routeRemote v s) else routeRemote v s = s := by
  subst hm
  unfold routeRemote
  split
  · exact ⟨_, rfl⟩
  · rfl

end

/-- Only the receive handler of a round can raise a fault. -/
theorem routeCounters_fault (v : Byte) (s : State) : (routeCounters v s).fault = s.fault := by
  unfold routeCounters
  split <;> rfl

theorem routeTransmit_fault (v : Byte) (now : Tick) (s : State) : (routeTransmit v now s).fault = s.fault := by
  rw [routeTransmit_transmit]
  rfl

/-- The four routing places of a round, each run in the state the one before left (R184). -/
def routed (now : Tick) (v : Byte) (s : State) : State :=
  routeRemote v (routeCounters v (routeTransmit v now (routeReceive v s)))

theorem routed_handlers (now : Tick) (v : Byte) (s : State) : routed now v s = s.withHandlers (routed now v s) :=
  State.withHandlers_trans (routeReceive_handlers s v) (State.withHandlers_trans (routeTransmit_handlers _ v now)
    (State.withHandlers_trans (routeCounters_handlers _ v) (routeRemote_handlers _ v)))

theorem routed_fault (now : Tick) (v : Byte) (s : State) : (routed now v s).fault = (routeReceive v s).fault := by
  rw [routed, routeRemote_eq, routeCounters_fault, routeTransmit_fault]

/-- A round without a fault is the routing, then the acknowledgement and the re-arm (R184 to R186). -/
theorem serviceRound_unfaulted {now : Tick} {v : Byte} {s : State} (h : (routeReceive v s).fault = none) :
    serviceRound now v s = (routed now v s).chipWrites (ackWrites s.cfg.chipMap v) := by
  have hcfg : (routed now v s).cfg = s.cfg := by rw [routed_handlers]; rfl
  rw [serviceRound, State.andThen_of_none h, ackAndRearm_writes, ← hcfg]
  rfl

/-- A fault of the receive handler is all that a round does after it (60_exceptions.md R250). -/
theorem serviceRound_faulted {now : Tick} {v : Byte} {s : State} (h : (routeReceive v s).fault ≠ none) :
    serviceRound now v s = routeReceive v s :=
  State.andThen_of_fault h

/-- A round inside the handler and without a fault, then a poll that finds no cause: the IRQ ends after the round's writes
(R199). -/
theorem serviceRound_exits {now : Tick} {v : Byte} {s : State} (k : Nat) (ho : s.isOpen = true) (hh : s.inHandler = true)
    (hf : (routeReceive v s).fault = none) (hquiet : ((routed now v s).env.chipAnswer .isr).1 = 0x00#8) :
    ((serviceRound now v s).andThen (serviceLoop now k)).andThen State.irqExit =
      { routed now v s with
          inHandler := false
          env := { ((routed now v s).env.chipAnswer .isr).2 with nested := (routed now v s).env.nested.tail }
          shadow := (routed now v s).shadow.putAll (ackWrites s.cfg.chipMap v)
          trace := (routed now v s).trace ++ writeEvents (ackWrites s.cfg.chipMap v)
            ++ nestedEvents (some .irqReentrant) ((routed now v s).env.nested.headD 0)
            ++ [.chipR .isr 0x00#8, .result .IRQ .unit]
          returned := .unit } := by
  have hrouted := routed_handlers now v s
  generalize hd : routed now v s = d at hquiet hrouted ⊢
  have hwritten := d.chipWrites_eq (ackWrites s.cfg.chipMap v)
  have hfault : (d.chipWrites (ackWrites s.cfg.chipMap v)).fault = none := by
    rw [hwritten, ← hf, ← routed_fault now v s, hd]
  rw [serviceRound_unfaulted hf, hd, State.andThen_of_none hfault, hwritten]
  exact serviceLoop_exits (s := { d with shadow := _, trace := _ }) now k (hwritten ▸ hfault)
    ((congrArg State.isOpen hrouted).trans ho) ((congrArg State.inHandler hrouted).trans hh) hquiet

/-- Settles O52: the first poll finds the cause; the round ends there with the receive handler's fault, or goes on through the
other routing places to its writes and the second poll (`serviceRound_exits`). -/
theorem irqServicesOneRound : Obligations.IrqServicesOneRound := by
  unfold Obligations.IrqServicesOneRound
  intro s hf ho hh hm hk hv m v landed entered ran handled ack writes
  have hack : ack = v &&& handledCauses m v := by simp [ack, handled, handledCauses]
  have hwrites : writes = ackWrites m v := by simp only [writes, hack]; rfl
  have hirq : exec .irq s = .next (((serviceRound s.operands.now v entered).andThen
      (serviceLoop s.operands.now (s.cfg.maxService - 1))).andThen State.irqExit) := by
    have hentered : (pollCauses s.irqEntry).2 = entered := pollCauses_irqEntry ho
    have hcause := serviceLoop_cause s.irqEntry s.operands.now (s.cfg.maxService - 1) hv
    rw [Nat.sub_add_cancel hk, hentered] at hcause
    rw [exec_irq_serviced ((irqGuard_eq_none_iff s).2 ⟨ho, hh, hm⟩), dispatchIrq, hcause]
    rfl
  have ha := routeReceive_handlers entered v
  have hb := State.withHandlers_trans ha (routeTransmit_handlers _ v s.operands.now)
  have hc := State.withHandlers_trans hb (routeCounters_handlers _ v)
  refine ⟨fun hmap => ?_, routeReceive v entered, routeTransmit v s.operands.now (routeReceive v entered),
    routeCounters v (routeTransmit v s.operands.now (routeReceive v entered)), routed s.operands.now v entered,
    routeReceive_ran v rfl, fun hfault => ⟨(routeReceive v entered).returned, ?_⟩, fun hfault =>
    ⟨routeTransmit_ran v (congrArg (·.cfg.chipMap) ha) (congrArg (·.operands.now) ha),
      routeCounters_ran v (congrArg (·.cfg.chipMap) hb), routeRemote_ran v (congrArg (·.cfg.chipMap) hc), fun hquiet => ?_⟩⟩
  · rw [hack, hmap]
    exact and_handledCauses_ns8390 v
  · rw [hirq, serviceRound_faulted hfault, State.andThen_of_fault hfault, State.andThen_of_fault hfault]
  · rw [hirq, serviceRound_exits (s := entered) _ ho rfl hfault hquiet, hwrites]
    rfl

/-! ### The budget -/

/-- No handler serves RST and no round acknowledges it: alone, it leaves the round its re-arm (R182). -/
theorem serviceRound_rst {s : State} (now : Tick) (hm : s.cfg.chipMap = ChipMap.ns8390) (hf : s.fault = none) :
    serviceRound now 0x80#8 s = s.chipWrite .cr 0x22#8 := by
  have hreceive : routeReceive 0x80#8 s = s := by simp only [routeReceive, hm]; rfl
  have htransmit : routeTransmit 0x80#8 now s = s := by simp only [routeTransmit, hm]; rfl
  have hcounters : routeCounters 0x80#8 s = s := by simp only [routeCounters, hm]; rfl
  rw [serviceRound_unfaulted (hreceive.symm ▸ hf), routed, hreceive, htransmit, hcounters, routeRemote_eq, hm]
  rfl

/-- The events of `n` rounds that find RST alone. -/
def rstRounds (n : Nat) : List Event := (List.replicate n [Event.chipR .isr 0x80#8, .chipW .cr 0x22#8]).flatten

/-- RST alone, pending at every poll, runs the loop to the end of its budget and the bulk acknowledgement (R187, R194). -/
theorem serviceLoop_rst {s : State} (now : Tick) (k : Nat) (hm : s.cfg.chipMap = ChipMap.ns8390) (hf : s.fault = none)
    (hn : s.env.nested = []) (hl : s.env.listed .isr = List.replicate (k + 1) 0x80#8) :
    ∃ sh e, serviceLoop now k s =
      { s with shadow := sh
               env := e
               trace := s.trace ++ rstRounds k
                 ++ [.chipR .isr 0x80#8, .chipW .isr 0x80#8, .log (.serviceBudgetExhausted 0x80#8)] } := by
  induction k generalizing s with
  | zero =>
    obtain ⟨hv, -⟩ := Env.chipAnswer_listed hl
    rw [serviceLoop_budget s now (by rw [hv]; decide), pollCauses_quiet s hn, hv]
    refine ⟨s.shadow.put .isr 0x80#8, (s.env.chipAnswer .isr).2, ?_⟩
    simp [bulkAck, rstRounds, State.chipRead, State.chipWrite, State.emit, hv]
  | succ k ih =>
    obtain ⟨hv, hrest⟩ := Env.chipAnswer_listed hl
    let s' := (s.chipRead .isr).2.chipWrite .cr 0x22#8
    obtain ⟨sh, e, hloop⟩ := ih (s := s') hm hf ((Env.chipAnswer_nested _ _).trans hn) hrest
    refine ⟨sh, e, ?_⟩
    rw [serviceLoop_cause s now k (by rw [hv]; decide), pollCauses_quiet s hn, hv,
      serviceRound_rst (s := (s.chipRead .isr).2) now hm hf, State.andThen_of_none (s := s') hf, hloop]
    simp [s', rstRounds, List.replicate_succ, State.chipRead, State.chipWrite, hv]

/-- Settles O53: the loop by `serviceLoop_rst` from the entry state, then the exit. -/
theorem irqBudgetExhausted : Obligations.IrqBudgetExhausted := by
  unfold Obligations.IrqBudgetExhausted
  intro s hm ho hh hmask hf hn hl
  obtain ⟨sh, e, hloop⟩ := serviceLoop_rst (s := s.irqEntry) s.operands.now s.cfg.maxService hm hf hn hl
  refine ⟨_, exec_irq_serviced ((irqGuard_eq_none_iff s).2 ⟨ho, hh, hmask⟩), ?_⟩
  rw [dispatchIrq, hloop, State.andThen_of_none (by exact hf)]
  have hwindow : s.cfg.chipMap.crWindow0 = 0x20#8 := by rw [hm]; rfl
  refine ⟨?_, ?_⟩
  · rw [State.irqExit_eq, ← hh]
    rfl
  · simp [State.irqExit_eq, irqEntry_eq, hwindow, rstRounds]

end Sys2Proof.Machine
end

section
/-! Overrun recovery OVERRUN_RECOVER (44_overrun.md): the state in which its DRAIN runs, the exact next state in terms of that DRAIN,
and what recovery leaves alone. -/

namespace Sys2Proof.Machine

/-! ### Before and after the DRAIN -/

theorem overrunStop_eq (s : State) :
    overrunStop s = (hasBit (s.env.chipAnswer .cr).1 s.cfg.chipMap.crTxp,
      { s with stats := (s.count .rxOverErrors 1).stats
               env := (s.env.chipAnswer .cr).2
               shadow := s.shadow.putAll [(.cr, s.cfg.chipMap.crStop), (.rbcr0, 0x00#8), (.rbcr1, 0x00#8)]
               trace := s.trace ++ [.chipR .cr (s.env.chipAnswer .cr).1, .chipW .cr s.cfg.chipMap.crStop,
                 .wait s.cfg.overrunWaitMin, .chipW .rbcr0 0x00#8, .chipW .rbcr1 0x00#8] }) := by
  simp [overrunStop, State.chipWrites_eq, State.chipRead, State.chipWrite, State.count, State.emit]

theorem resendTest_eq (wasTxing : Bool) (s : State) :
    resendTest wasTxing s =
      (wasTxing && !hasBit (s.env.chipAnswer .isr).1 (s.cfg.chipMap.isrPtx ||| s.cfg.chipMap.isrTxe),
        { s with env := if wasTxing then (s.env.chipAnswer .isr).2 else s.env
                 trace := s.trace ++ if wasTxing then [.chipR .isr (s.env.chipAnswer .isr).1] else [] }) := by
  cases wasTxing
  · simp [resendTest]
  · rfl

/-- The writes after the DRAIN: OVW acknowledged, normal mode, the resend if one is owed (R207, R208, R213). -/
def overrunFinishWrites (m : ChipMap) (mustResend : Bool) : List (ChipReg × Byte) :=
  [(.isr, m.isrOvw), (.tcr, m.tcrNormal)] ++ (if mustResend then [(.cr, m.crTrans)] else [])

theorem overrunFinish_eq (wasTxing mustResend : Bool) (s : State) :
    overrunFinish wasTxing mustResend s =
      { s with shadow := s.shadow.putAll (overrunFinishWrites s.cfg.chipMap mustResend)
               trace := s.trace ++ writeEvents (overrunFinishWrites s.cfg.chipMap mustResend)
                 ++ [.log (.overrun wasTxing mustResend)] } := by
  unfold overrunFinish
  rw [State.chipWrites_eq]
  cases mustResend <;> simp [State.chipWrite, State.emit, overrunFinishWrites]

/-! ### The next state -/

/-- Was a transmit in progress when CR was read (R202)? -/
def overrunTxing (s : State) : Bool := hasBit (s.env.chipAnswer .cr).1 s.cfg.chipMap.crTxp

/-- The answer to the read of ISR that follows the read of CR (R205). -/
def overrunIsr (s : State) : Byte × Env := (s.env.chipAnswer .cr).2.chipAnswer .isr

/-- Is a resend owed (R205)? -/
def overrunOwed (s : State) : Bool :=
  overrunTxing s && !hasBit (overrunIsr s).1 (s.cfg.chipMap.isrPtx ||| s.cfg.chipMap.isrTxe)

/-- The writes before the DRAIN: stop, remote byte count to zero, loopback, restart (R203, R204, R206). -/
def overrunStopWrites (m : ChipMap) : List (ChipReg × Byte) :=
  [(.cr, m.crStop), (.rbcr0, 0x00#8), (.rbcr1, 0x00#8), (.tcr, m.tcrLoopback), (.cr, m.crStart)]

/-- The state in which the DRAIN runs: R216 up to step 5. -/
def overrunStopped (s : State) : State :=
  { s with stats := (s.count .rxOverErrors 1).stats
           env := if overrunTxing s then (overrunIsr s).2 else (s.env.chipAnswer .cr).2
           shadow := s.shadow.putAll (overrunStopWrites s.cfg.chipMap)
           trace := s.trace
             ++ [ .chipR .cr (s.env.chipAnswer .cr).1, .chipW .cr s.cfg.chipMap.crStop, .wait s.cfg.overrunWaitMin,
                  .chipW .rbcr0 0x00#8, .chipW .rbcr1 0x00#8 ]
             ++ (if overrunTxing s then [.chipR .isr (overrunIsr s).1] else [])
             ++ [ .chipW .tcr s.cfg.chipMap.tcrLoopback, .chipW .cr s.cfg.chipMap.crStart ] }

/-- OVERRUN_RECOVER is a DRAIN between its steps up to 5 and its steps 6 and 7. -/
theorem overrunRecover_eq (s : State) :
    overrunRecover s = (drain (overrunStopped s)).2.andThen (overrunFinish (overrunTxing s) (overrunOwed s)) := by
  unfold overrunRecover overrunRestart
  rw [overrunStop_eq]
  simp only [resendTest_eq, State.chipWrites_eq]
  rfl

/-- The DRAIN of recovery runs under the configuration of `s`. -/
theorem drain_overrunStopped_cfg (s : State) : (drain (overrunStopped s)).2.cfg = s.cfg :=
  (drain_run (w := false) (overrunStopped s)).cfg_eq

/-- Settles O59, by `overrunRecover_eq`: a fault of the DRAIN ends the recovery, and without one `overrunFinish_eq` gives the rest. -/
theorem overrunRecoverResult : Obligations.OverrunRecoverResult := by
  unfold Obligations.OverrunRecoverResult
  intro s m cr wasTxing isr mustResend stopped restart
  have hrecover : overrunRecover s = (drain stopped).2.andThen (overrunFinish wasTxing mustResend) := overrunRecover_eq s
  have hwrites : overrunFinishWrites (drain stopped).2.cfg.chipMap mustResend = restart :=
    congrArg (overrunFinishWrites ·.chipMap mustResend) (drain_overrunStopped_cfg s)
  refine ⟨(drain stopped).2.returning (.delivered (drain stopped).1), rfl, ?_⟩
  rw [exec, execOverrunRecover, hrecover, State.returning_fault]
  split
  · rename_i hfault
    rw [State.andThen_of_none hfault, overrunFinish_eq, hwrites]
    rfl
  · rename_i hfault
    rw [State.andThen_of_fault hfault]
    rfl

/-! ### The frame -/

/-- The registers recovery may write, its DRAIN's BNRY among them. -/
abbrev overrunRegs : List ChipReg := [.cr, .rbcr0, .rbcr1, .tcr, .isr, .bnry]

/-- `t` is `s` after part of a recovery: no shadow but those of `overrunRegs` changed, and nothing was reset (R209, R215). -/
structure Recovering (s t : State) : Prop where
  shadow : ∀ r : ChipReg, r ∉ overrunRegs → t.shadow.get r = s.shadow.get r
  events : ∃ es, t.trace = s.trace ++ es ∧ ∀ b, Event.resetChip b ∉ es

theorem Recovering.trans {s t u : State} (h : Recovering s t) (h' : Recovering t u) : Recovering s u := by
  obtain ⟨es, ht, hes⟩ := h.events
  obtain ⟨fs, hu, hfs⟩ := h'.events
  exact {
    shadow := fun r hr => (h'.shadow r hr).trans (h.shadow r hr)
    events := ⟨es ++ fs, by rw [hu, ht, List.append_assoc], fun b hb => (List.mem_append.1 hb).elim (hes b) (hfs b)⟩ }

/-- Writes of `overrunRegs` alone, with events of which none is a reset. -/
theorem Recovering.of_writes {s t : State} {ws : List (ChipReg × Byte)} {es : List Event}
    (hshadow : t.shadow = s.shadow.putAll ws) (hws : ∀ w ∈ ws, w.1 ∈ overrunRegs)
    (htrace : t.trace = s.trace ++ es) (hes : ∀ b, Event.resetChip b ∉ es) : Recovering s t :=
  ⟨fun _ hr => hshadow ▸ Shadow.get_putAll_other _ fun w hw => ne_of_mem_of_not_mem (hws w hw) hr, es, htrace, hes⟩

theorem overrunStopped_recovering (s : State) : Recovering s (overrunStopped s) := by
  refine .of_writes (ws := overrunStopWrites s.cfg.chipMap) rfl (by simp [overrunStopWrites])
    ((congrArg (· ++ _) (List.append_assoc ..)).trans (List.append_assoc ..)) fun b => ?_
  cases overrunTxing s <;> simp

/-- DRAIN writes BNRY alone and resets nothing (R167, R168). -/
theorem drain_recovering (s : State) : Recovering s (drain s).2 := by
  obtain ⟨-, -, -, hshadow, ⟨es, htrace, hes⟩, -⟩ := drain_drained s
  exact ⟨fun r hr => hshadow r fun he => hr (by simp [he]), es, htrace, fun b => hes (.resetChip b)⟩

theorem overrunFinish_recovering (wasTxing mustResend : Bool) (s : State) :
    Recovering s (overrunFinish wasTxing mustResend s) := by
  rw [overrunFinish_eq]
  refine .of_writes (ws := overrunFinishWrites s.cfg.chipMap mustResend) rfl ?_ (List.append_assoc ..) fun b => ?_
  · cases mustResend <;> simp [overrunFinishWrites]
  · simp [writeEvents]

theorem overrunRecover_recovering (s : State) : Recovering s (overrunRecover s) := by
  have hdrained := (overrunStopped_recovering s).trans (drain_recovering (overrunStopped s))
  rw [overrunRecover_eq]
  by_cases hfault : (drain (overrunStopped s)).2.fault = none
  · rw [State.andThen_of_none hfault]
    exact hdrained.trans (overrunFinish_recovering _ _ _)
  · rw [State.andThen_of_fault hfault]
    exact hdrained

/-- Settles O60: the fields by `overrunRecover_receive`, the shadows and events by `overrunRecover_recovering`. -/
theorem overrunRecoverFrame : Obligations.OverrunRecoverFrame := by
  unfold Obligations.OverrunRecoverFrame
  intro s
  obtain ⟨hshadow, es, htrace, hes⟩ := overrunRecover_recovering s
  refine ⟨(overrunRecover s).returning .unit, es, rfl, ?_, hshadow, hes⟩
  rw [← htrace]
  exact congrArg (State.returning · .unit) (overrunRecover_receive s)

end Sys2Proof.Machine
end

section
/-! The multicast hash filter (45_multicast.md): the table bit by bit, as a fact about which addresses are listed, and MC_REBUILD and
SET_MULTICAST as exact next states. -/

namespace Sys2Proof.Machine

/-! ### The table -/

theorem mcByte_concat (list : List MacAddr) (a : MacAddr) (m : Nat) :
    mcByte (list ++ [a]) m =
      if mcIndex a / 8 = m then mcByte list m ||| BitVec.twoPow 8 (mcIndex a % 8) else mcByte list m :=
  List.foldl_concat ..

/-- Bit `b` of byte `m` is set exactly when a listed address hashes there (R222): each address sets its own bit and clears none. -/
theorem getLsbD_mcByte (list : List MacAddr) (m : Nat) {b : Nat} (hb : b < 8) :
    (mcByte list m).getLsbD b = true ↔ ∃ a ∈ list, mcIndex a = 8 * m + b := by
  induction list using List.reverseRecOn with
  | nil => simp [mcByte]
  | append_singleton list a ih =>
    have hmem : (∃ x ∈ list ++ [a], mcIndex x = 8 * m + b)
        ↔ (∃ x ∈ list, mcIndex x = 8 * m + b) ∨ mcIndex a = 8 * m + b := by simp [or_and_right, exists_or]
    rw [mcByte_concat, hmem, ← ih]
    split
    · have hbit : (BitVec.twoPow 8 (mcIndex a % 8)).getLsbD b = true ↔ mcIndex a = 8 * m + b := by
        rw [BitVec.getLsbD_twoPow, Bool.and_eq_true, decide_eq_true_iff, decide_eq_true_iff]
        omega
      rw [BitVec.getLsbD_or, Bool.or_eq_true, hbit]
    · have hother : mcIndex a ≠ 8 * m + b := by omega
      simp only [hother, or_false]

theorem mcTable_list_get (list : List MacAddr) (m : Fin 8) : (mcTable .list list).get m = mcByte list m.val :=
  Vector.getElem_ofFn ..

theorem mcTable_ones_get {mode : McMode} (h : mode ≠ .list) (list : List MacAddr) (m : Fin 8) :
    (mcTable mode list).get m = 0xFF#8 := by
  cases mode with
  | list => exact absurd rfl h
  | allMulti => exact Vector.getElem_replicate ..
  | promisc => exact Vector.getElem_replicate ..

/-! ### MC_REBUILD -/

theorem exec_mcRebuild (s : State) :
    exec .mcRebuild s = .next ((mcRebuild s).returning (.table (mcTable s.mcMode s.mcList))) := rfl

/-- The eight table writes leave byte `m` in MAR`m` (R227). -/
theorem Shadow.get_putAll_marWrites (sh : Shadow) (t : HashTable) (m : Fin 8) :
    (sh.putAll (marWrites t)).get (.mar m) = some (t.get m) := by
  fin_cases m <;> simp [marWrites, List.finRange]

theorem mcRebuild_mar (s : State) (m : Fin 8) :
    (mcRebuild s).shadow.get (.mar m) = some ((mcTable s.mcMode s.mcList).get m) := by
  rw [mcRebuild_eq]
  simp [rebuildWrites, Shadow.get_putAll_marWrites]

/-- Settles O25: the bits by `getLsbD_mcByte`, the registers by `mcRebuild_mar`. -/
theorem tableBits : Obligations.TableBits := by
  unfold Obligations.TableBits
  refine ⟨fun list m b => ?_, fun list m => ⟨mcTable_ones_get (by decide) list m, mcTable_ones_get (by decide) list m⟩,
    fun s m => ⟨_, exec_mcRebuild s, mcRebuild_mar s m⟩⟩
  rw [mcTable_list_get]
  exact getLsbD_mcByte list m.val b.isLt

/-- Settles O26: each bit asks only whether some listed address has its index (`getLsbD_mcByte`). -/
theorem tableDependsOnTheSet : Obligations.TableDependsOnTheSet := by
  unfold Obligations.TableDependsOnTheSet
  intro mode a b hmem
  cases mode with
  | list =>
    have hbyte : ∀ m, mcByte a m = mcByte b m := fun m => BitVec.eq_of_getLsbD_eq fun i hi => by
      rw [Bool.eq_iff_iff, getLsbD_mcByte a m hi, getLsbD_mcByte b m hi]
      simp only [hmem]
    simp only [mcTable, hbyte]
  | allMulti => rfl
  | promisc => rfl

/-- Settles O27: the next state is `mcRebuild_eq`'s with the table returned, and `rebuildWrites` lists the writes in R233's order. -/
theorem mcRebuildResult : Obligations.McRebuildResult := by
  unfold Obligations.McRebuildResult
  intro s m t writes
  have hwrites : rebuildWrites s = writes := rfl
  rw [exec_mcRebuild, mcRebuild_eq, hwrites]
  rfl

/-! ### SET_MULTICAST -/

theorem exec_setMulticast {md : BitVec 2} {mode : McMode} (h : McMode.ofBits? md = some mode) (s : State) :
    exec (.setMulticast md) s =
      .next ((mcRebuild { s with mcMode := mode, mcList := s.operands.list }).finish .SET_MULTICAST .unit) := by
  simp only [exec, execSetMulticast, h, setMulticast]

theorem exec_setMulticast_reserved {md : BitVec 2} (h : McMode.ofBits? md = none) (s : State) :
    exec (.setMulticast md) s = .refused .illegalCommandWord := by
  simp only [exec, execSetMulticast, h]

/-- Settles O28: both operations rebuild from the state with the new mode and list; MC_REBUILD returns the table where
SET_MULTICAST has its result, and `md = 11` names no mode. -/
theorem setMulticastResult : Obligations.SetMulticastResult := by
  unfold Obligations.SetMulticastResult
  intro s
  refine ⟨fun md mode hmd => ?_, exec_setMulticast_reserved (by decide) s⟩
  have hmode : McMode.ofBits? md = some mode := by
    obtain ⟨rfl, rfl⟩ | ⟨rfl, rfl⟩ | ⟨rfl, rfl⟩ := hmd <;> rfl
  exact ⟨_, exec_mcRebuild _, exec_setMulticast hmode s⟩

end Sys2Proof.Machine
end

section
/-! Who writes IMR (O16, 60_exceptions.md R243): among the events a small change appends, the IMR writes are INIT's, CLOSE's and those
of SUBMIT's critical section, and each writes one of the two masks. -/

namespace Sys2Proof.Machine

/-- IMR may take the value `v`: where `w` allows a write of IMR at all, and then only the two masks (30_encoding.md R95). -/
def ImrWriteAllowed (w : Bool) (m : ChipMap) (v : Byte) : Prop := w = true ∧ (v = m.imrNone ∨ v = m.imrAll)

/-- From `s` to `t` events were appended, and every IMR write among them is allowed. -/
def ImrAppended (w : Bool) (s t : State) : Prop :=
  ∃ es, t.trace = s.trace ++ es ∧ ∀ v, Event.chipW .imr v ∈ es → ImrWriteAllowed w s.cfg.chipMap v

theorem chipW_mem_writeEvents {r : ChipReg} {v : Byte} {ws : List (ChipReg × Byte)} :
    Event.chipW r v ∈ writeEvents ws ↔ (r, v) ∈ ws := by
  simp [writeEvents]

namespace ImrAppended

variable {w : Bool} {s t u : State}

/-- A change that leaves the trace. -/
theorem of_trace_eq (h : t.trace = s.trace) : ImrAppended w s t := ⟨[], by rw [h, List.append_nil], by simp⟩

/-- Events that write no register. -/
theorem of_no_write {es : List Event} (ht : t.trace = s.trace ++ es) (he : ∀ e ∈ es, e.isWrite = false) :
    ImrAppended w s t := by
  refine ⟨es, ht, fun v hv => ?_⟩
  have hwrite : (Event.chipW .imr v).isWrite = false := he _ hv
  cases hwrite

theorem of_writes (ws : List (ChipReg × Byte)) (ht : t.trace = s.trace ++ writeEvents ws)
    (hws : ∀ v, (.imr, v) ∈ ws → ImrWriteAllowed w s.cfg.chipMap v) : ImrAppended w s t :=
  ⟨writeEvents ws, ht, fun v hv => hws v (chipW_mem_writeEvents.1 hv)⟩

/-- One write of another register. -/
theorem of_write {r : ChipReg} {v : Byte} (ht : t.trace = s.trace ++ [.chipW r v]) (hr : r ≠ .imr) : ImrAppended w s t :=
  of_writes [(r, v)] ht fun _ hv => absurd (congrArg Prod.fst (List.mem_singleton.1 hv)).symm hr

theorem trans (h : ImrAppended w s t) (h' : ImrAppended w t u) (hcfg : t.cfg = s.cfg) : ImrAppended w s u := by
  obtain ⟨es, ht, hes⟩ := h
  obtain ⟨fs, hu, hfs⟩ := h'
  refine ⟨es ++ fs, by rw [hu, ht, List.append_assoc], fun v hv => ?_⟩
  obtain hv | hv := List.mem_append.1 hv
  · exact hes v hv
  · exact hcfg ▸ hfs v hv

end ImrAppended

/-- MC_REBUILD writes RCR and the multicast registers alone. -/
theorem rebuildWrites_not_imr (s : State) (v : Byte) : (.imr, v) ∉ rebuildWrites s := by simp [rebuildWrites, marWrites]

/-- INIT masks IMR among its programming writes and unmasks it on the start path (40_bringup.md R122). -/
theorem initWrites_imr {start : Bool} {s : State} {v : Byte} (h : (.imr, v) ∈ initWrites start s) :
    v = s.cfg.chipMap.imrNone ∨ v = s.cfg.chipMap.imrAll := by
  cases start with
  | false => exact .inl (by simpa [initWrites, programWrites, parWrites, marWrites] using h)
  | true => simpa [initWrites, programWrites, parWrites, marWrites] using h

/-- Every small change writes IMR only where `w` says so, with one of the two masks. -/
theorem Micro.imrAppended {w : Bool} {k : Nat} {s t : State} (m : Micro w k s t) : ImrAppended w s t := by
  cases m with
  | book hb => exact .of_trace_eq (by rw [hb]; rfl)
  | emit _ he => exact .of_no_write rfl (by simpa using he)
  | write _ v hr => exact .of_write rfl hr.1
  | imr _ v hw hv =>
    refine .of_writes [(.imr, v)] rfl fun x hx => ?_
    obtain rfl : x = v := by simpa using hx
    exact ⟨hw, hv⟩
  | rebuild => exact .of_writes _ (by rw [mcRebuild_eq]) fun v hv => absurd hv (rebuildWrites_not_imr s v)
  | init start _ hw => exact .of_writes _ (by rw [initialise_eq]) fun v hv => ⟨hw, initWrites_imr hv⟩
  | release _ p => exact .of_write (r := .bnry) rfl (by simp)
  | count => exact .of_trace_eq rfl
  | preempt => exact .of_no_write (by rw [State.preempt_eq]) (nestedEvents_no_write _ _)
  | load => exact .of_trace_eq rfl

/-- So does a chain of small changes. -/
theorem Run.imrAppended {w : Bool} {n : Nat} {s t : State} (h : Run w n s t) : ImrAppended w s t := by
  induction h with
  | refl => exact .of_trace_eq rfl
  | tail h m _ ih => exact ih.trans m.imrAppended h.cfg_eq

theorem masks_iff (op : Op) : masks op = true ↔ op ∈ [Op.INIT, Op.OPEN, Op.CLOSE, Op.SUBMIT, Op.TX_TIMEOUT_RESET] := by
  cases op <;> decide

/-- Settles O16: every operation is a chain of small changes that write IMR only in the operations of `masks`, and then only a mask
(`Run.imrAppended`). -/
theorem interruptMaskWriters : Obligations.InterruptMaskWriters := by
  unfold Obligations.InterruptMaskWriters
  intro i s t es v h ht hv
  obtain ⟨fs, hfs, hallowed⟩ := (exec_run h).imrAppended
  obtain rfl : es = fs := List.append_cancel_left (ht.symm.trans hfs)
  obtain ⟨hop, hmask⟩ := hallowed v hv
  exact ⟨(masks_iff i.op).1 hop, hmask⟩

end Sys2Proof.Machine
end

section
/-! Rules about the events of every operation: the event bounds (O14, 70_reset_and_hazards.md R284) and the guard of the multicast
registers (O15, R286), each proved once for the small changes and carried along a chain of them; and the shadow that the
initialization leaves (O22, R279). -/

namespace Sys2Proof.Machine

/-! ### The event bounds -/

/-- The events of the trace and the two of each nested `IRQ` step still listed. -/
def State.eventsDue (s : State) : Nat := s.trace.length + 2 * s.env.nested.sum

/-- Events appended while no step leaves the list. -/
theorem State.eventsDue_le {s t : State} {k : Nat} (es : List Event) (ht : t.trace = s.trace ++ es)
    (hn : t.env.nested = s.env.nested) (hk : es.length ≤ k) : t.eventsDue ≤ s.eventsDue + k := by
  simp only [State.eventsDue, ht, hn, List.length_append]
  omega

/-- A preemption point appends no more than the events of the steps it takes off the list. -/
theorem State.preempt_eventsDue_le (s : State) : s.preempt.eventsDue ≤ s.eventsDue := by
  have hlen := nestedEvents_length (irqGuard s) (s.env.nested.headD 0)
  have hsum : s.env.nested.sum = s.env.nested.headD 0 + s.env.nested.tail.sum := by cases s.env.nested <;> simp
  simp only [State.eventsDue, State.preempt_eq, List.length_append]
  omega

theorem Micro.eventsDue_le {w : Bool} {k : Nat} {s t : State} (h : Micro w k s t) : t.eventsDue ≤ s.eventsDue + k := by
  cases h with
  | book hb hn => exact State.eventsDue_le [] (by rw [hb, List.append_nil]; rfl) hn (Nat.le_refl 0)
  | emit _ _ => exact State.eventsDue_le [_] rfl rfl (Nat.le_refl 1)
  | write _ v => exact State.eventsDue_le [.chipW _ v] rfl rfl (Nat.le_refl 1)
  | imr _ v => exact State.eventsDue_le [.chipW .imr v] rfl rfl (Nat.le_refl 1)
  | rebuild =>
    exact State.eventsDue_le (writeEvents (rebuildWrites s)) (by rw [mcRebuild_eq]) (by rw [mcRebuild_eq]) (by simp)
  | init start =>
    exact State.eventsDue_le (writeEvents (initWrites start s)) (by rw [initialise_eq]) (by rw [initialise_eq])
      (by simpa using initWrites_length s start)
  | release _ p => exact State.eventsDue_le [.chipW .bnry (ringPred s.cfg p)] rfl rfl (Nat.le_refl 1)
  | count => exact State.eventsDue_le [] (List.append_nil _).symm rfl (Nat.le_refl 0)
  | preempt => exact s.preempt_eventsDue_le
  | load => exact State.eventsDue_le [] (List.append_nil _).symm rfl (Nat.le_refl 0)

theorem Run.eventsDue_le {w : Bool} {n : Nat} {s t : State} (h : Run w n s t) : t.eventsDue ≤ s.eventsDue + n := by
  induction h with
  | refl => omega
  | tail _ m hb ih =>
    have hm := m.eventsDue_le
    omega

/-- No past event is removed or changed (10_state.md R44). -/
theorem Run.trace_prefix {w : Bool} {n : Nat} {s t : State} (h : Run w n s t) : s.trace <+: t.trace := by
  refine h.keeps (P := fun u => s.trace <+: u.trace) (fun m hs => ?_) (List.prefix_refl _)
  obtain ⟨es, ht, -⟩ := m.appended
  exact hs.trans ⟨es, ht.symm⟩

/-- Settles O14: an operation is a chain of small changes within its event bound (`exec_run`), and each of them only appends. -/
theorem eventsBounded : Obligations.EventsBounded := by
  unfold Obligations.EventsBounded
  intro i s t h
  exact ⟨(exec_run h).trace_prefix, (exec_run h).eventsDue_le⟩

/-! ### The multicast registers -/

/-- The guard holds over two lists in order when the second starts with what the first leaves in RCR. -/
theorem marGuarded_append (off : Byte) (cur : Option Byte) (es fs : List Event) :
    marGuarded off cur (es ++ fs) = (marGuarded off cur es && marGuarded off (lastWrite .rcr cur es) fs) := by
  induction es generalizing cur with
  | nil => rfl
  | cons e rest ih => simp [marGuarded, ih, lastWrite, Bool.and_assoc]

theorem marGuarded_of_no_mar {off : Byte} {cur : Option Byte} {es : List Event} (h : ∀ e ∈ es, e.isMarWrite = false) :
    marGuarded off cur es = true := by
  induction es generalizing cur with
  | nil => rfl
  | cons e rest ih =>
    simp [marGuarded, h e List.mem_cons_self, ih fun f hf => h f (List.mem_cons_of_mem _ hf)]

theorem isMarWrite_of_not_write {e : Event} (h : e.isWrite = false) : e.isMarWrite = false := by
  cases e with
  | chipW => cases h
  | _ => rfl

theorem isMarWrite_chipW {r : ChipReg} (v : Byte) (h : ∀ m, r ≠ .mar m) : (Event.chipW r v).isMarWrite = false := by
  cases r with
  | mar m => exact absurd rfl (h m)
  | _ => rfl

/-- Writes of other registers. -/
theorem marGuarded_writeEvents {off : Byte} {cur : Option Byte} {ws : List (ChipReg × Byte)}
    (h : ∀ x ∈ ws, ∀ m, x.1 ≠ .mar m) : marGuarded off cur (writeEvents ws) = true := by
  refine marGuarded_of_no_mar fun e he => ?_
  obtain ⟨x, hx, rfl⟩ := List.mem_map.1 he
  exact isMarWrite_chipW x.2 (h x hx)

/-- The table written right after receive is turned off, and then other registers (45_multicast.md R227, R229): no table write
touches RCR. -/
theorem marGuarded_marWrites {off : Byte} {cur : Option Byte} (t : HashTable) {ws : List (ChipReg × Byte)}
    (h : ∀ x ∈ ws, ∀ m, x.1 ≠ .mar m) :
    marGuarded off cur (writeEvents ([(.rcr, off)] ++ marWrites t ++ ws)) = true := by
  have htable : marGuarded off cur (writeEvents ([(.rcr, off)] ++ marWrites t)) = true := by
    simp [marWrites, List.finRange, marGuarded, Event.isMarWrite, Event.shadowAfter]
  rw [writeEvents_append, marGuarded_append, htable, marGuarded_writeEvents h, Bool.and_self]

theorem marGuarded_rebuildWrites (s : State) (cur : Option Byte) :
    marGuarded s.cfg.chipMap.rcrOff cur (writeEvents (rebuildWrites s)) = true :=
  marGuarded_marWrites _ (by simp)

theorem programWrites_not_mar (cfg : Cfg) : ∀ x ∈ programWrites cfg, ∀ m, x.1 ≠ .mar m := by
  simp [programWrites, parWrites, List.finRange]

/-- INIT writes the table between other registers (40_bringup.md R122). -/
theorem exists_initWrites_eq (start : Bool) (s : State) :
    ∃ ws, (∀ x ∈ ws, ∀ m, x.1 ≠ .mar m) ∧ initWrites start s =
      programWrites s.cfg ++ ([(.rcr, s.cfg.chipMap.rcrOff)] ++ marWrites (mcTable s.mcMode s.mcList) ++ ws) := by
  refine ⟨_, ?_, by simp only [initWrites, List.append_assoc]; rfl⟩
  cases start <;> simp

theorem marGuarded_initWrites (start : Bool) (s : State) (cur : Option Byte) :
    marGuarded s.cfg.chipMap.rcrOff cur (writeEvents (initWrites start s)) = true := by
  obtain ⟨ws, hws, heq⟩ := exists_initWrites_eq start s
  rw [heq, writeEvents_append, marGuarded_append, marGuarded_writeEvents (programWrites_not_mar s.cfg),
    marGuarded_marWrites _ hws, Bool.and_self]

/-- From `s` to `t` events were appended, the shadow of RCR followed them, and each write of a multicast register among them found
RCR off. -/
def MarAppended (s t : State) : Prop :=
  ∃ es, t.trace = s.trace ++ es ∧ t.shadow.get .rcr = lastWrite .rcr (s.shadow.get .rcr) es
    ∧ marGuarded s.cfg.chipMap.rcrOff (s.shadow.get .rcr) es = true

theorem MarAppended.of_appended {s t : State} {es : List Event} (h : Appended s t) (ht : t.trace = s.trace ++ es)
    (hg : marGuarded s.cfg.chipMap.rcrOff (s.shadow.get .rcr) es = true) : MarAppended s t := by
  obtain ⟨fs, hfs, hsh⟩ := h
  obtain rfl : es = fs := List.append_cancel_left (ht.symm.trans hfs)
  exact ⟨es, ht, hsh .rcr, hg⟩

theorem MarAppended.trans {s t u : State} (h : MarAppended s t) (h' : MarAppended t u) (hcfg : t.cfg = s.cfg) :
    MarAppended s u := by
  obtain ⟨es, ht, hrcr, hes⟩ := h
  obtain ⟨fs, hu, hrcr', hfs⟩ := h'
  rw [hcfg, hrcr] at hfs
  refine ⟨es ++ fs, by rw [hu, ht, List.append_assoc], by rw [hrcr', hrcr, lastWrite_append], ?_⟩
  rw [marGuarded_append, hes, hfs, Bool.and_self]

/-- Only the rebuild and the initialization write a multicast register, and both turn receive off first. -/
theorem Micro.marAppended {w : Bool} {k : Nat} {s t : State} (m : Micro w k s t) : MarAppended s t := by
  have h := m.appended
  cases m with
  | book hb => exact .of_appended h (es := []) (by rw [hb, List.append_nil]; rfl) rfl
  | emit _ he => exact .of_appended h rfl (marGuarded_of_no_mar (by simpa using isMarWrite_of_not_write he))
  | write _ v hr =>
    obtain ⟨-, -, hmar⟩ := hr
    exact .of_appended h rfl (marGuarded_writeEvents (ws := [(_, v)]) (by simpa using hmar))
  | imr _ v => exact .of_appended h rfl (marGuarded_writeEvents (ws := [(.imr, v)]) (by simp))
  | rebuild => exact .of_appended h (by rw [mcRebuild_eq]) (marGuarded_rebuildWrites s _)
  | init start => exact .of_appended h (by rw [initialise_eq]) (marGuarded_initWrites start s _)
  | release _ p =>
    exact .of_appended h rfl (marGuarded_writeEvents (ws := [(.bnry, ringPred s.cfg p)]) (by simp))
  | count => exact .of_appended h (List.append_nil _).symm rfl
  | preempt =>
    exact .of_appended h (by rw [State.preempt_eq])
      (marGuarded_of_no_mar fun e he => isMarWrite_of_not_write (nestedEvents_no_write _ _ e he))
  | load => exact .of_appended h (List.append_nil _).symm rfl

theorem Run.marAppended {w : Bool} {n : Nat} {s t : State} (h : Run w n s t) : MarAppended s t := by
  induction h with
  | refl => exact ⟨[], (List.append_nil _).symm, rfl, rfl⟩
  | tail h m _ ih => exact ih.trans m.marAppended h.cfg_eq

/-- Settles O15: every operation is a chain of small changes, and each finds RCR off where it writes the table
(`Micro.marAppended`). -/
theorem multicastWrittenWithReceiveOff : Obligations.MulticastWrittenWithReceiveOff := by
  unfold Obligations.MulticastWrittenWithReceiveOff
  intro i s t es h ht
  obtain ⟨fs, hfs, -, hg⟩ := (exec_run h).marAppended
  obtain rfl : es = fs := List.append_cancel_left (ht.symm.trans hfs)
  exact hg

/-! ### The shadow after the initialization -/

/-- A family of writes leaves every register outside it. -/
theorem Shadow.get_putAll_finRange_other {n : Nat} (sh : Shadow) (f : Fin n → ChipReg × Byte) {r : ChipReg}
    (h : ∀ i, r ≠ (f i).1) : (sh.putAll ((List.finRange n).map f)).get r = sh.get r := by
  refine Shadow.get_putAll_other _ fun x hx => ?_
  obtain ⟨i, -, rfl⟩ := List.mem_map.1 hx
  exact (h i).symm

theorem Shadow.get_putAll_marWrites_other (sh : Shadow) (t : HashTable) {r : ChipReg} (h : ∀ m, r ≠ .mar m) :
    (sh.putAll (marWrites t)).get r = sh.get r := Shadow.get_putAll_finRange_other sh _ h

theorem Shadow.get_putAll_parWrites_other (sh : Shadow) (a : MacAddr) {r : ChipReg} (h : ∀ i, r ≠ .par i) :
    (sh.putAll (parWrites a)).get r = sh.get r := Shadow.get_putAll_finRange_other sh _ h

/-- The six address writes leave byte `i` in PAR`i` (R122). -/
theorem Shadow.get_putAll_parWrites (sh : Shadow) (a : MacAddr) (i : Fin 6) :
    (sh.putAll (parWrites a)).get (.par i) = some (a.get i) := by
  fin_cases i <;> simp [parWrites, List.finRange]

/-- The table of an empty list has no bit set (R222). -/
theorem mcTable_list_nil_get (k : Fin 8) : (mcTable .list []).get k = 0x00#8 := mcTable_list_get [] k

/-- Settles O22: both operations leave the shadow of `initWrites`, where each register has the value of its last write, and the
registers that no write names keep theirs. -/
theorem openShadow : Obligations.OpenShadow := by
  unfold Obligations.OpenShadow
  intro s hmode hlist m
  refine ⟨⟨_, exec_openInst s, ?_⟩, ⟨_, exec_init false s, ?_⟩⟩
  · simp [initialise_eq, initWrites, programWrites, Shadow.get_putAll_marWrites, Shadow.get_putAll_marWrites_other,
      Shadow.get_putAll_parWrites, Shadow.get_putAll_parWrites_other, mcTable_list_nil_get, rcrMode, hmode, hlist, m]
  · simp [initialise_eq, initWrites, programWrites, Shadow.get_putAll_marWrites_other, Shadow.get_putAll_parWrites_other, m]

end Sys2Proof.Machine
end
